-- ==== Sys2Proof/Word.lean ====
section
/-! DEFINITION. The plain types of the LS47 grid engine: words, addresses, symbol codes, lengths, positions and grids
(00_scope R6, R8, R11 to R13; 20_memory R60). -/

namespace Sys2Proof

/-- One host access or one command: 32 bits (20_memory R60, 30_encoding R90). -/
abbrev Word := BitVec 32

/-- A word address of the register space: 14 bits (20_memory R60). -/
abbrev Addr := BitVec 14

/-- A symbol code: 6 bits (00_scope R8). -/
abbrev Sym := BitVec 6

/-- A length or an index in symbols: 13 bits (10_state R32 to R34, R36). -/
abbrev Count := BitVec 13

/-- A set of symbol codes, bit `v` standing for code `v` (10_state R42). -/
abbrev SymSet := BitVec 64

/-- A position, or a pair of offsets: row first, 3 bits each (00_scope R6 `POSW`, R12). -/
structure Pos where
  row : BitVec 3
  col : BitVec 3
deriving DecidableEq, Repr

/-- The 64 cells of `KEY` or of `GRID` (10_state R38, R39). -/
abbrev Grid := Vector Sym 64

end Sys2Proof
end

