-- ==== Sys2Proof/Syntax.lean ====
section
/-! DEFINITION. The sixteen commands (30_encoding R94), one constructor per row of the opcode table. -/

namespace Sys2Proof

/-- A command with its operands as 30_encoding R92 and R93 give them: a rotation amount is the signed integer `n`,
every other operand the bits of its field. -/
inductive Instr where
  /-- INIT: start a call (41_key_derivation R152). -/
  | init
  /-- KEYLIT: load a literal key (R153). -/
  | keylit
  /-- KEYDRV: derive the key from a keyword (R154). -/
  | keydrv
  /-- CHKKEY: validate a key (R155). -/
  | chkkey
  /-- CHKMSG `kind`: validate a symbol string (43_message_commands R202). -/
  | chkmsg (kind : BitVec 2)
  /-- SYMAT `row, col`: symbol-at (40_grid_ops R131). -/
  | symat (row col : BitVec 3)
  /-- POSOF `s`: position-of (R132). -/
  | posof (s : Sym)
  /-- ROTR `line, n`, or ROTR.M when `m`: row-rotate (R133). -/
  | rotr (m : Bool) (line : BitVec 3) (n : Int)
  /-- ROTC `line, n`, or ROTC.M when `m`: column-rotate (R134). -/
  | rotc (m : Bool) (line : BitVec 3) (n : Int)
  /-- MKADV `s`: marker advance (R135). -/
  | mkadv (s : Sym)
  /-- ENC1 `s`: one encryption step (42_cipher_step R177). -/
  | enc1 (s : Sym)
  /-- DEC1 `s`: one decryption step (R178). -/
  | dec1 (s : Sym)
  /-- ENC: encrypt a message (43_message_commands R192). -/
  | enc
  /-- DEC: decrypt a message (R193). -/
  | dec
  /-- ENCN: encrypt with nonce (R200). -/
  | encn
  /-- DECN: decrypt with nonce (R201). -/
  | decn
deriving DecidableEq, Repr

end Sys2Proof
end

