-- ==== Sys2Proof/WellFormed.lean ====
section
/-! DEFINITION. Which commands have an encoding (30_encoding R93). Every field but the rotation amount has exactly the width of
its bits, so the amount is the one operand to check. -/

namespace Sys2Proof

/-- A rotation amount that 8 bits hold in two's complement: `-128 .. 127` (R93). -/
def amountEncodable (n : Int) : Bool := decide (-128 ≤ n) && decide (n ≤ 127)

/-- The command has an encoding: its rotation amount, if it has one, fits the field `n8` (R92, R93). -/
def Instr.wellFormed : Instr → Bool
  | .init => true
  | .keylit => true
  | .keydrv => true
  | .chkkey => true
  | .chkmsg _ => true
  | .symat _ _ => true
  | .posof _ => true
  | .rotr _ _ n => amountEncodable n
  | .rotc _ _ n => amountEncodable n
  | .mkadv _ => true
  | .enc1 _ => true
  | .dec1 _ => true
  | .enc => true
  | .dec => true
  | .encn => true
  | .decn => true

end Sys2Proof
end

