-- ==== Sys2Proof/Decode.lean ====
section
/-! DEFINITION. The decoder and the encoder of command words (30_encoding R90 to R97). The decoder is total on the 2^32 words and
reads no state (R95, R96). -/

namespace Sys2Proof

/-- Why a word is illegal (R95). The engine reports all three as `IllegalCommand`; the names are the decoder's (log entry 14). -/
inductive IllegalWord where
  /-- `OPC` is not one of the sixteen values. -/
  | unknownOpcode
  /-- `Z1` (bits 23:17) is not zero. -/
  | reservedBits
  /-- A must-be-zero bit of the command's format is 1. -/
  | formatBits
deriving DecidableEq, Repr

/-- `OPC`, bits 31:24 (R91). -/
def fieldOpc (w : Word) : BitVec 8 := w.extractLsb' 24 8

/-- `Z1`, bits 23:17 (R91). -/
def fieldZ1 (w : Word) : BitVec 7 := w.extractLsb' 17 7

/-- `M`, bit 16 (R91). -/
def fieldM (w : Word) : Bool := w.getLsbD 16

/-- `A`, bits 15:8 (R91). -/
def fieldA (w : Word) : BitVec 8 := w.extractLsb' 8 8

/-- `B`, bits 7:0 (R91). -/
def fieldB (w : Word) : BitVec 8 := w.extractLsb' 0 8

/-- `sext_8` (00_scope R11). -/
def sext8 (v : BitVec 8) : Int := if v.toNat < 128 then (v.toNat : Int) else (v.toNat : Int) - 256

/-- Format Z: no operand (R92). -/
def formatZ (w : Word) (i : Instr) : Except IllegalWord Instr :=
  if fieldM w = false ∧ fieldA w = 0 ∧ fieldB w = 0 then .ok i else .error .formatBits

/-- Format K: `kind = B[1:0]` (R92). -/
def formatK (w : Word) (f : BitVec 2 → Instr) : Except IllegalWord Instr :=
  if fieldM w = false ∧ fieldA w = 0 ∧ (fieldB w).extractLsb' 2 6 = 0 then .ok (f ((fieldB w).extractLsb' 0 2))
  else .error .formatBits

/-- Format S: `s = B[5:0]` (R92). -/
def formatS (w : Word) (f : Sym → Instr) : Except IllegalWord Instr :=
  if fieldM w = false ∧ fieldA w = 0 ∧ (fieldB w).extractLsb' 6 2 = 0 then .ok (f ((fieldB w).extractLsb' 0 6))
  else .error .formatBits

/-- Format P: `row = A[2:0]`, `col = B[2:0]` (R92). -/
def formatP (w : Word) (f : BitVec 3 → BitVec 3 → Instr) : Except IllegalWord Instr :=
  if fieldM w = false ∧ (fieldA w).extractLsb' 3 5 = 0 ∧ (fieldB w).extractLsb' 3 5 = 0 then
    .ok (f ((fieldA w).extractLsb' 0 3) ((fieldB w).extractLsb' 0 3))
  else .error .formatBits

/-- Format R: `M`, `line = A[2:0]`, `n = sext_8(B)` (R92, R93). -/
def formatR (w : Word) (f : Bool → BitVec 3 → Int → Instr) : Except IllegalWord Instr :=
  if (fieldA w).extractLsb' 3 5 = 0 then .ok (f (fieldM w) ((fieldA w).extractLsb' 0 3) (sext8 (fieldB w)))
  else .error .formatBits

/-- The operands of a word whose `OPC` is `opc`, by the format of its row (R94). -/
def decodeOperands (opc : Nat) (w : Word) : Except IllegalWord Instr :=
  match opc with
  | 0x01 => formatZ w .init
  | 0x02 => formatZ w .keylit
  | 0x03 => formatZ w .keydrv
  | 0x04 => formatZ w .chkkey
  | 0x05 => formatK w .chkmsg
  | 0x10 => formatP w .symat
  | 0x11 => formatS w .posof
  | 0x12 => formatR w .rotr
  | 0x13 => formatR w .rotc
  | 0x14 => formatS w .mkadv
  | 0x20 => formatS w .enc1
  | 0x21 => formatS w .dec1
  | 0x30 => formatZ w .enc
  | 0x31 => formatZ w .dec
  | 0x32 => formatZ w .encn
  | 0x33 => formatZ w .decn
  | _ => .error .unknownOpcode

/-- The decoder (R95, R96). -/
def decode (w : Word) : Except IllegalWord Instr :=
  if fieldZ1 w = 0 then decodeOperands (fieldOpc w).toNat w else .error .reservedBits

/-- The word made of the fields of R91, `Z1` zero. -/
def packWord (opc : BitVec 8) (m : Bool) (a b : BitVec 8) : Word := opc ++ (0#7) ++ BitVec.ofBool m ++ a ++ b

/-- The word of a command (R92, R94). A rotation amount is encoded as `n mod 256` (R98). -/
def encode : Instr → Word
  | .init => packWord 0x01 false 0 0
  | .keylit => packWord 0x02 false 0 0
  | .keydrv => packWord 0x03 false 0 0
  | .chkkey => packWord 0x04 false 0 0
  | .chkmsg kind => packWord 0x05 false 0 (0#6 ++ kind)
  | .symat row col => packWord 0x10 false (0#5 ++ row) (0#5 ++ col)
  | .posof s => packWord 0x11 false 0 (0#2 ++ s)
  | .rotr m line n => packWord 0x12 m (0#5 ++ line) (BitVec.ofInt 8 n)
  | .rotc m line n => packWord 0x13 m (0#5 ++ line) (BitVec.ofInt 8 n)
  | .mkadv s => packWord 0x14 false 0 (0#2 ++ s)
  | .enc1 s => packWord 0x20 false 0 (0#2 ++ s)
  | .dec1 s => packWord 0x21 false 0 (0#2 ++ s)
  | .enc => packWord 0x30 false 0 0
  | .dec => packWord 0x31 false 0 0
  | .encn => packWord 0x32 false 0 0
  | .decn => packWord 0x33 false 0 0

/-- One row of the opcode map of R94: a word `w` is the command exactly when `w and mask = match`. -/
structure OpcodeRow where
  mnemonic : String
  wordMatch : Word
  mask : Word
deriving DecidableEq, Repr

/-- The word satisfies the row's test (R94, R96). -/
def OpcodeRow.accepts (r : OpcodeRow) (w : Word) : Bool := w &&& r.mask == r.wordMatch

/-- The row of R94 that a command belongs to. -/
def opcodeRow : Instr → OpcodeRow
  | .init => ⟨"INIT", 0x01000000, 0xFFFFFFFF⟩
  | .keylit => ⟨"KEYLIT", 0x02000000, 0xFFFFFFFF⟩
  | .keydrv => ⟨"KEYDRV", 0x03000000, 0xFFFFFFFF⟩
  | .chkkey => ⟨"CHKKEY", 0x04000000, 0xFFFFFFFF⟩
  | .chkmsg _ => ⟨"CHKMSG", 0x05000000, 0xFFFFFFFC⟩
  | .symat _ _ => ⟨"SYMAT", 0x10000000, 0xFFFFF8F8⟩
  | .posof _ => ⟨"POSOF", 0x11000000, 0xFFFFFFC0⟩
  | .rotr _ _ _ => ⟨"ROTR", 0x12000000, 0xFFFEF800⟩
  | .rotc _ _ _ => ⟨"ROTC", 0x13000000, 0xFFFEF800⟩
  | .mkadv _ => ⟨"MKADV", 0x14000000, 0xFFFFFFC0⟩
  | .enc1 _ => ⟨"ENC1", 0x20000000, 0xFFFFFFC0⟩
  | .dec1 _ => ⟨"DEC1", 0x21000000, 0xFFFFFFC0⟩
  | .enc => ⟨"ENC", 0x30000000, 0xFFFFFFFF⟩
  | .dec => ⟨"DEC", 0x31000000, 0xFFFFFFFF⟩
  | .encn => ⟨"ENCN", 0x32000000, 0xFFFFFFFF⟩
  | .decn => ⟨"DECN", 0x33000000, 0xFFFFFFFF⟩

/-- The opcode map of R94, all sixteen rows in the table's order. -/
def opcodeRows : List OpcodeRow :=
  [.init, .keylit, .keydrv, .chkkey, .chkmsg 0, .symat 0 0, .posof 0, .rotr false 0 0, .rotc false 0 0, .mkadv 0, .enc1 0,
    .dec1 0, .enc, .dec, .encn, .decn].map opcodeRow

/-- The command word whose low `nbits` bits are `w`'s, every other bit 0. A command is one 32-bit word, so there is no layout of
several words to make (R90, R97, log entry 19). -/
def tableWord (nbits w : Nat) : Word := BitVec.ofNat 32 (w % 2 ^ nbits)

/-- The command the decoder reads from the word of an opcode-table row (log entry 19). -/
def decodeTableWord (nbits w : Nat) : Option Instr :=
  match decode (tableWord nbits w) with
  | .ok i => some i
  | .error _ => none

end Sys2Proof
end

