-- ==== Sys2Proof/Config.lean ====
section
/-! DEFINITION. What an implementation fixes, and the values the spec leaves open (93_implementation_defined U4, U5, U6).
An `opaque` constant has no body: no proof can see which value it is. -/

namespace Sys2Proof.Config

/-- The least `BUF_DEPTH` (00_scope R6). -/
def minBufDepth : Nat := 64

/-- The greatest `BUF_DEPTH` (00_scope R6). -/
def maxBufDepth : Nat := 4096

/-- How far this instance's `BUF_DEPTH` lies above the least one: any number from 0 to 4032 (log entry 5). -/
opaque bufDepthAboveMin : Fin 4033

/-- `BUF_DEPTH`, the number of symbols each buffer holds, `64 <= BUF_DEPTH <= 4096` (00_scope R6, decision D9, log entry 5). -/
def bufDepth : Nat := minBufDepth + bufDepthAboveMin.val

/-- `n <= BUF_DEPTH`. The first test follows from the second (`Laws.fits_iff`); it lets a run with small numbers be evaluated
while `BUF_DEPTH` stays open (log entry 5). -/
def fits (n : Nat) : Bool := decide (n ≤ minBufDepth) || decide (n ≤ bufDepth)

/-- FREE VALUE: what `IBUF[k]` holds after the `r`-th hard reset (10_state R48, U6, log entry 6). -/
opaque ibufAfterReset (r k : Nat) : Sym

/-- FREE VALUE: what `OBUF[k]` holds after the `r`-th hard reset (10_state R48, U6, log entry 6). -/
opaque obufAfterReset (r k : Nat) : Sym

/-- FREE VALUE: the word the `n`-th read of an unspecified register while busy returns (20_memory R72, U5, log entry 8). -/
opaque busyRead (n : Nat) : Word

end Sys2Proof.Config
end

