-- ==== Sys2Proof/Machine/State.lean ====
section
/-! DEFINITION. The state of one block instance (10_state R20), as plain data, its value after a hard reset (R48), and the reasons a
step could stop. -/

namespace Sys2Proof.Machine

/-- The two legal values of `CONFIG.SIZE` (10_state R26): the side of the grid (00_scope R2). -/
inductive GridSize where
  | six
  | seven
deriving DecidableEq, Repr

/-- The grid side `size` (00_scope R2). -/
def GridSize.side : GridSize → Nat
  | .six => 6
  | .seven => 7

/-- The alphabet length `N = size * size` (00_scope R2). -/
def GridSize.count (sz : GridSize) : Nat := sz.side * sz.side

/-- The marker mode (10_state R26, 42_cipher_step R176). -/
inductive MarkerMode where
  | stationary
  | coRotating
deriving DecidableEq, Repr

/-- The nonce mode: Mode A plaintext-prefixed, Mode B ciphertext-prefixed (10_state R26, 43_message_commands R194). -/
inductive NonceMode where
  | modeA
  | modeB
deriving DecidableEq, Repr

/-- `CONFIG` (10_state R26). `size = none` is the unconfigured value 0 of the field `SIZE`, which only reset gives; no other value
of the field can stand in the register, so none is represented (log entry 11). -/
structure ConfigReg where
  size : Option GridSize
  mmode : MarkerMode
  nmode : NonceMode
deriving DecidableEq, Repr

/-- `STATUS`, its seven flags (10_state R28). -/
structure StatusReg where
  busy : Bool
  done : Bool
  err : Bool
  fatal : Bool
  keyvalid : Bool
  gridvalid : Bool
  buserr : Bool
deriving DecidableEq, Repr

/-- `IEN`, the three interrupt enables (10_state R30). -/
structure IenReg where
  doneIe : Bool
  errIe : Bool
  fatalIe : Bool
deriving DecidableEq, Repr

/-- `FIND_ILL`, `FIND_MISS`, `FIND_DUP` (10_state R42). -/
structure Findings where
  ill : SymSet
  miss : SymSet
  dup : SymSet
deriving DecidableEq, Repr

/-- A symbol buffer, `IBUF` or `OBUF` (10_state R43, R44): the elements written since the last hard reset, each with its code.
An element that is not listed holds the free value of that reset (log entry 6). -/
abbrev Memory := List (Nat × Sym)

/-- The canonical form of a buffer: elements strictly rising. -/
abbrev Memory.wf (m : Memory) : Prop := m.Pairwise (fun a b => a.1 < b.1)

/-- What can happen next at the block (00_scope R15, 20_memory R61). The order in which these happen is the environment's
(93 U9, log entry 1). -/
inductive Event where
  /-- The host performs `MemRead(addr, 1)` (20_memory R62). -/
  | read (addr : Addr)
  /-- The host performs `MemWrite(addr, 1, w)` (20_memory R63). -/
  | write (addr : Addr) (w : Word)
  /-- The hard reset input acts (70_reset_and_hazards R260). -/
  | hardReset
  /-- The engine takes its turn: it completes the command in flight, if there is one (60_exceptions R222). -/
  | engine
deriving DecidableEq, Repr

/-- The state of the machine. The fields up to `obuf` are the spec's (10_state R20), the last four the model's own. -/
structure State where
  /-- `CONFIG` (R26). -/
  config : ConfigReg
  /-- `STATUS` (R28). -/
  status : StatusReg
  /-- `ECODE` (R29): `CODE` in bits 7:0, `F_ILL`, `F_MISS`, `F_DUP` in bits 8, 9, 10. -/
  ecode : BitVec 11
  /-- `IEN` (R30). -/
  ien : IenReg
  /-- `CMD` (R31). -/
  cmd : Word
  /-- `LEN` (R32). -/
  len : Count
  /-- `NLEN` (R33). -/
  nlen : Count
  /-- `OLEN` (R34). -/
  olen : Count
  /-- `IDX` (R36). -/
  idx : Count
  /-- `RSYM` (R35). -/
  rsym : Sym
  /-- `RPOS` (R37). -/
  rpos : Pos
  /-- `KEY[0..63]` (R38). -/
  key : Grid
  /-- `GRID[0..63]` (R39). -/
  grid : Grid
  /-- `MARKER` (R40). -/
  marker : Pos
  /-- `FIND_ILL`, `FIND_MISS`, `FIND_DUP` (R42). -/
  find : Findings
  /-- `IBUF` (R43). -/
  ibuf : Memory
  /-- `OBUF` (R44). -/
  obuf : Memory
  /-- The model's own: what happens next, in order (log entry 1). -/
  agenda : List Event
  /-- The model's own: the word the last host read returned (20_memory R61, log entry 4). -/
  rdata : Word
  /-- The model's own: how many unspecified words have been drawn (20_memory R72, log entry 8). -/
  draws : Nat
  /-- The model's own: how many hard resets have happened (log entry 6). -/
  hardResets : Nat
deriving DecidableEq, Repr

/-- Why a step stops with a fault: never. Every command word, with every operand value and in every state, has an outcome the
spec defines (70_reset_and_hazards R276), and every host access has one too (20_memory R62, R63), so this type has no
constructor (log entry 13). -/
inductive Fault where
deriving DecidableEq, Repr

/-- Why a step is refused. -/
inductive Refusal where
  /-- Raised by an arm of `exec` that gives its instruction no meaning yet; safe, as nothing can be proved of such a step. No arm
  raises it. -/
  | notModelled (mnemonic : String)
deriving DecidableEq, Repr

/-- What a step or a meaning answers. -/
abbrev StepResult := Host.Outcome State Fault Refusal

/-- The machine right after a hard reset, nothing on its agenda (10_state R48; `key` and `grid` log entry 7, the buffers log
entry 6, the model's own fields log entries 1, 4, 6, 8). -/
def State.reset : State where
  config := ⟨none, .stationary, .modeA⟩
  status := ⟨false, false, false, false, false, false, false⟩
  ecode := 0
  ien := ⟨false, false, false⟩
  cmd := 0
  len := 0
  nlen := 0
  olen := 0
  idx := 0
  rsym := 0
  rpos := ⟨0, 0⟩
  key := Vector.replicate 64 0
  grid := Vector.replicate 64 0
  marker := ⟨0, 0⟩
  find := ⟨0, 0, 0⟩
  ibuf := []
  obuf := []
  agenda := []
  rdata := 0
  draws := 0
  hardResets := 0

end Sys2Proof.Machine
end

