-- ==== Sys2Proof/Machine/Flags.lean ====
section
/-! DEFINITION. The words of the control and status registers, the error codes and the interrupt level (10_state R24 to R47,
60_exceptions R225, R242). -/

namespace Sys2Proof.Machine

/-- The field `SIZE` of `CONFIG` (10_state R26). -/
def sizeField : Option GridSize → BitVec 3
  | none => 0
  | some .six => 6
  | some .seven => 7

/-- The bit `MMODE` of `CONFIG` (R26): 0 stationary, 1 co-rotating. -/
def mmodeBit : MarkerMode → Bool
  | .stationary => false
  | .coRotating => true

/-- The bit `NMODE` of `CONFIG` (R26): 0 Mode A, 1 Mode B. -/
def nmodeBit : NonceMode → Bool
  | .modeA => false
  | .modeB => true

/-- `CONFIG` as the host reads it (R26). -/
def configWord (c : ConfigReg) : Word :=
  0#22 ++ BitVec.ofBool (nmodeBit c.nmode) ++ BitVec.ofBool (mmodeBit c.mmode) ++ 0#5 ++ sizeField c.size

/-- The register that a legal word written to `CONFIG` gives, none for an illegal word (R26). -/
def configOfWord (w : Word) : Option ConfigReg :=
  if w.extractLsb' 3 5 = 0 ∧ w.extractLsb' 10 22 = 0 then
    let mmode := if w.getLsbD 8 then MarkerMode.coRotating else MarkerMode.stationary
    let nmode := if w.getLsbD 9 then NonceMode.modeB else NonceMode.modeA
    if w.extractLsb' 0 3 = 6 then some ⟨some .six, mmode, nmode⟩
    else if w.extractLsb' 0 3 = 7 then some ⟨some .seven, mmode, nmode⟩
    else none
  else none

/-- `STATUS` as the host reads it (R28): bits 6 to 0 are `BUSERR`, `GRIDVALID`, `KEYVALID`, `FATAL`, `ERR`, `DONE`, `BUSY`. -/
def statusWord (t : StatusReg) : Word :=
  0#25 ++ BitVec.ofBool t.buserr ++ BitVec.ofBool t.gridvalid ++ BitVec.ofBool t.keyvalid ++ BitVec.ofBool t.fatal
    ++ BitVec.ofBool t.err ++ BitVec.ofBool t.done ++ BitVec.ofBool t.busy

/-- `IEN` as the host reads it (R30). -/
def ienWord (e : IenReg) : Word :=
  0#29 ++ BitVec.ofBool e.fatalIe ++ BitVec.ofBool e.errIe ++ BitVec.ofBool e.doneIe

/-- A position as a register shows it: row in bits 10:8, column in bits 2:0, every other bit 0 (R37, R40). -/
def posWord (p : Pos) : Word := 0#21 ++ p.row ++ 0#5 ++ p.col

/-- The errors of a failed command (60_exceptions R225). `SymbolNotFound` is the fatal outcome, not one of these. -/
inductive CmdError where
  | invalidKey
  | invalidNonce
  | invalidPlaintext
  | invalidCiphertext
  | invalidKeyword
  | illegalCommand
  | badOperand
  | badLength
  | notConfigured
  | noKey
  | noState
deriving DecidableEq, Repr

/-- `ECODE[7:0]` of a failed command (R225). -/
def errorCode : CmdError → BitVec 8
  | .invalidKey => 0x01
  | .invalidNonce => 0x02
  | .invalidPlaintext => 0x03
  | .invalidCiphertext => 0x04
  | .invalidKeyword => 0x06
  | .illegalCommand => 0x10
  | .badOperand => 0x11
  | .badLength => 0x12
  | .notConfigured => 0x13
  | .noKey => 0x14
  | .noState => 0x15

/-- `ECODE[7:0]` of the fatal outcome `SymbolNotFound` (R225, R234). -/
def symbolNotFoundCode : BitVec 8 := 0x05

/-- `ECODE`: the code in bits 7:0, and in bits 8, 9, 10 whether each finding set is non-empty (10_state R29, 60_exceptions R230). -/
def ecodeOf (code : BitVec 8) (f : Findings) : BitVec 11 :=
  BitVec.ofBool (f.dup != 0) ++ BitVec.ofBool (f.miss != 0) ++ BitVec.ofBool (f.ill != 0) ++ code

/-- `ECODE.CODE` (R29). -/
def ecodeCode (e : BitVec 11) : BitVec 8 := e.extractLsb' 0 8

/-- No findings: every finding set is 0. -/
def noFindings : Findings := ⟨0, 0, 0⟩

/-- Findings that are illegal symbols alone (60_exceptions R227 to R229, R235). -/
def illFindings (bad : SymSet) : Findings := ⟨bad, 0, 0⟩

/-- The interrupt output, a level and a function of state (10_state R47). -/
def irq (s : State) : Bool :=
  (s.ien.doneIe && s.status.done) || (s.ien.errIe && (s.status.done && s.status.err)) || (s.ien.fatalIe && s.status.fatal)

/-- The set of the codes `v < 64` that satisfy `p`, as a 64-bit mask (10_state R42). -/
def symSetOf (p : Nat → Bool) : SymSet :=
  (List.range 64).foldl (fun acc v => if p v then acc ||| BitVec.ofNat 64 (2 ^ v) else acc) 0

end Sys2Proof.Machine
end

