-- ==== Sys2Proof/Machine/Ops.lean ====
section
/-! DEFINITION. The shared operations: cells and buffer elements, the three outcomes of a command (60_exceptions R220 to R234), its
acceptance (R221), a refused access (20_memory R66) and the two resets (70_reset_and_hazards R260, R261). -/

namespace Sys2Proof.Machine

/-! ### Cells of `KEY` and `GRID` -/

/-- Cell `k` of a grid; 0 beyond the 64 cells, which no rule reads. -/
def cell (G : Grid) (k : Nat) : Sym := if h : k < 64 then G[k] else 0

/-- The 64 cells given by their index. -/
def tabulate (f : Nat → Sym) : Grid := ⟨((List.range 64).map f).toArray, by simp⟩

/-- `for k in 0 .. n-1: dst[k] <- f k`: the cells from `n` on keep their value (10_state R38, R39). -/
def storeCells (n : Nat) (f : Nat → Sym) (dst : Grid) : Grid := tabulate fun k => if k < n then f k else cell dst k

/-! ### Elements of `IBUF` and `OBUF` -/

/-- The code written to element `k` since the last hard reset, if one was. -/
def bufFind : Memory → Nat → Option Sym
  | [], _ => none
  | (a, v) :: r, k => if a = k then some v else bufFind r k

/-- Element `k <- v`, keeping the elements strictly rising. -/
def bufPut : Memory → Nat → Sym → Memory
  | [], k, v => [(k, v)]
  | (a, x) :: r, k, v => if k < a then (k, v) :: (a, x) :: r else if k = a then (k, v) :: r else (a, x) :: bufPut r k v

/-- Elements `k, k+1, ... <- vs`, in that order. -/
def bufPutFrom (m : Memory) (k : Nat) : List Sym → Memory
  | [] => m
  | v :: vs => bufPutFrom (bufPut m k v) (k + 1) vs

/-- `IBUF[k]` (10_state R43); an element nothing has written since the last hard reset holds its free value (R48, log entry 6). -/
def ibufAt (s : State) (k : Nat) : Sym := (bufFind s.ibuf k).getD (Config.ibufAfterReset s.hardResets k)

/-- `OBUF[k]` (10_state R44); as for `IBUF`. -/
def obufAt (s : State) (k : Nat) : Sym := (bufFind s.obuf k).getD (Config.obufAfterReset s.hardResets k)

/-- The input of a buffer command: `IBUF[0 .. LEN-1]`, in order (20_memory R76, R77). -/
def input (s : State) : List Sym := (List.range s.len.toNat).map (ibufAt s)

/-! ### The outcomes of a command -/

/-- What every completion does to `STATUS`: `BUSY <- 0`, `DONE <- 1`, and `ERR` as the outcome says (60_exceptions R222). -/
def completeStatus (err : Bool) (t : StatusReg) : StatusReg := { t with busy := false, done := true, err := err }

/-- Success (R223). -/
def succeed (s : State) : State := { s with status := completeStatus false s.status, ecode := 0, find := noFindings }

/-- `fail <Error>(info)` (R230): THE outcome of a failed command, for every error. What the command wrote before it (`OLEN <- 0`,
`IDX <- 0`) is already in `s`. -/
def fail (e : CmdError) (f : Findings) (s : State) : State :=
  { s with status := completeStatus true s.status, ecode := ecodeOf (errorCode e) f, find := f }

/-- `fatal SymbolNotFound` as every command takes it (R234). -/
def fatal (s : State) : State :=
  { s with
    status := { completeStatus true s.status with fatal := true }
    ecode := ecodeOf symbolNotFoundCode noFindings
    find := noFindings }

/-- `STATUS.GRIDVALID <- 0` (R234, 10_state R26). -/
def dropGrid (s : State) : State := { s with status := { s.status with gridvalid := false } }

/-- `fatal SymbolNotFound` in a command that writes `GRID` (R234). -/
def fatalInStep (s : State) : State := fatal (dropGrid s)

/-- `fatal SymbolNotFound` in a message command (R234). -/
def fatalInMessage (s : State) : State := fatal (dropGrid { s with olen := 0, idx := 0 })

/-- A failed input validation of a command that writes `IDX` only (41_key_derivation R153 to R155, 43_message_commands R202). -/
def failKeyInput (e : CmdError) (f : Findings) (s : State) : State := fail e f { s with idx := 0 }

/-- A failed input validation of a message command: `OLEN <- 0; IDX <- 0` (43_message_commands R191 step 1). -/
def failMessageInput (e : CmdError) (bad : SymSet) (s : State) : State := fail e (illFindings bad) { s with olen := 0, idx := 0 }

/-- Check 2 of R224: an unconfigured block fails `NotConfigured` (R239); a configured one goes on with its `size`. -/
def configured (s : State) (k : GridSize → State) : StepResult :=
  match s.config.size with
  | none => .next (fail .notConfigured noFindings s)
  | some sz => .next (k sz)

/-! ### Accesses and resets -/

/-- A refused access (20_memory R66): `BUSERR <- 1` and nothing else. -/
def refuse (s : State) : State := { s with status := { s.status with buserr := true } }

/-- The acceptance of the command word `w` (60_exceptions R221). -/
def accept (w : Word) (s : State) : State := { s with cmd := w, status := { s.status with busy := true, done := false } }

/-- The soft reset (70_reset_and_hazards R261): every register at its reset value, `KEY` and `GRID` erased, the buffers kept. The
model's own fields are no registers and stay. -/
def softReset (s : State) : State :=
  { State.reset with
    ibuf := s.ibuf, obuf := s.obuf, agenda := s.agenda, rdata := s.rdata, draws := s.draws, hardResets := s.hardResets }

/-- The hard reset (R260): every piece of state at its reset value; the buffers hold the free values of one more hard reset
(10_state R48, log entries 6 and 7). -/
def hardReset (s : State) : State :=
  { State.reset with agenda := s.agenda, rdata := s.rdata, draws := s.draws, hardResets := s.hardResets + 1 }

end Sys2Proof.Machine
end

