-- ==== Sys2Proof/Machine/Operands.lean ====
section
/-! DEFINITION. The operands of a command and their legal ranges (30_encoding R93, check 3 of 60_exceptions R224). -/

namespace Sys2Proof.Machine

/-- `s < N` (R93). -/
def symInRange (sz : GridSize) (v : Sym) : Bool := decide (v.toNat < sz.count)

/-- `line < size`, for a row or a column (R93). -/
def lineInRange (sz : GridSize) (line : BitVec 3) : Bool := decide (line.toNat < sz.side)

/-- Both components of a position operand are `< size` (R93). -/
def posInRange (sz : GridSize) (p : Pos) : Bool := lineInRange sz p.row && lineInRange sz p.col

/-- What CHKMSG checks the input as (43_message_commands R202). -/
inductive MsgKind where
  | nonce
  | plain
  | cipher
deriving DecidableEq, Repr

/-- The operand `kind`: 3 is out of range (R93, R202). -/
def msgKind (kind : BitVec 2) : Option MsgKind :=
  if kind = 0 then some .nonce else if kind = 1 then some .plain else if kind = 2 then some .cipher else none

/-- The error that names a kind of input (R202, 60_exceptions R227 to R229). -/
def msgKindError : MsgKind → CmdError
  | .nonce => .invalidNonce
  | .plain => .invalidPlaintext
  | .cipher => .invalidCiphertext

/-- The stretch `IBUF[lo .. hi-1]` of an input (43_message_commands R190). -/
def stretch (lo hi : Nat) (inp : List Sym) : List Sym := (inp.take hi).drop lo

/-- `badset`: the codes `>= N` that occur in a stretch (R190). -/
def badset (sz : GridSize) (inp : List Sym) : SymSet :=
  symSetOf fun v => decide (sz.count ≤ v) && inp.any (fun x => x.toNat == v)

end Sys2Proof.Machine
end

