-- ==== Sys2Proof/Machine/Grid.lean ====
section
/-! DEFINITION. The pure functions of the grid and of positions (40_grid_ops R120 to R128). -/

namespace Sys2Proof.Machine

/-- `a mod size`, the floored modulus, as a position component (00_scope R10). -/
def modSize (sz : GridSize) (a : Int) : BitVec 3 := BitVec.ofNat 3 (a % (sz.side : Int)).toNat

/-- The flat index of a position: row-major (00_scope R13). -/
def flat (sz : GridSize) (p : Pos) : Nat := p.row.toNat * sz.side + p.col.toNat

/-- The position of a flat index: `(k div size, k mod size)` (00_scope R13). -/
def posOfFlat (sz : GridSize) (k : Nat) : Pos := ⟨BitVec.ofNat 3 (k / sz.side), BitVec.ofNat 3 (k % sz.side)⟩

/-- The identity grid `G[k] = k`, `k < N`, the other cells 0 (00_scope R13). -/
def identityGrid (sz : GridSize) : Grid := tabulate fun k => if k < sz.count then BitVec.ofNat 6 k else 0

/-- `ix(s)`, the canonical position of a code `s < N` (R120). -/
def ix (sz : GridSize) (v : Sym) : Pos := posOfFlat sz v.toNat

/-- `padd`, position add (R121). -/
def padd (sz : GridSize) (a b : Pos) : Pos :=
  ⟨modSize sz ((a.row.toNat : Int) + b.row.toNat), modSize sz ((a.col.toNat : Int) + b.col.toNat)⟩

/-- `psub`, position subtract (R122). -/
def psub (sz : GridSize) (a b : Pos) : Pos :=
  ⟨modSize sz ((a.row.toNat : Int) - b.row.toNat), modSize sz ((a.col.toNat : Int) - b.col.toNat)⟩

/-- `symat`, symbol-at (R123). -/
def symat (sz : GridSize) (G : Grid) (p : Pos) : Sym := cell G (flat sz p)

/-- `posof`, position-of: the least cell that holds the symbol; none when it fails with `SymbolNotFound` (R124). -/
def posof (sz : GridSize) (G : Grid) (v : Sym) : Option Pos :=
  ((List.range sz.count).find? fun k => cell G k == v).map (posOfFlat sz)

/-- `rotr`, row-rotate by any integer `n` (R125): the cell in column `c` of row `r` receives what was in column
`(c - n) mod size` of that row, which is R125's assignment read from its target. -/
def rotr (sz : GridSize) (G : Grid) (r : Nat) (n : Int) : Grid :=
  tabulate fun k =>
    if k < sz.count ∧ k / sz.side = r then
      cell G (r * sz.side + (modSize sz (((k % sz.side : Nat) : Int) - n)).toNat)
    else cell G k

/-- `rotc`, column-rotate by any integer `n` (R126): the cell in row `r` of column `c` receives what was in row
`(r - n) mod size` of that column. -/
def rotc (sz : GridSize) (G : Grid) (c : Nat) (n : Int) : Grid :=
  tabulate fun k =>
    if k < sz.count ∧ k % sz.side = c then
      cell G ((modSize sz (((k / sz.side : Nat) : Int) - n)).toNat * sz.side + c)
    else cell G k

/-- `mkr`, marker adjustment for a row rotation (R127). -/
def mkr (sz : GridSize) (M : Pos) (r : Nat) (n : Int) : Pos :=
  if M.row.toNat = r then ⟨M.row, modSize sz ((M.col.toNat : Int) + n)⟩ else M

/-- `mkc`, marker adjustment for a column rotation (R128). -/
def mkc (sz : GridSize) (M : Pos) (c : Nat) (n : Int) : Pos :=
  if M.col.toNat = c then ⟨modSize sz ((M.row.toNat : Int) + n), M.col⟩ else M

end Sys2Proof.Machine
end

