-- ==== Sys2Proof/Machine/GridCmds.lean ====
section
/-! DEFINITION. The operator commands SYMAT, POSOF, ROTR, ROTC and MKADV (40_grid_ops R131 to R135). -/

namespace Sys2Proof.Machine

/-- SYMAT `row, col` (R131). -/
def execSymat (row col : BitVec 3) (s : State) : StepResult :=
  configured s fun sz =>
    if posInRange sz ⟨row, col⟩ = false then fail .badOperand noFindings s
    else if s.status.gridvalid = false then fail .noState noFindings s
    else succeed { s with rsym := symat sz s.grid ⟨row, col⟩ }

/-- POSOF `s` (R132): the operand is not range-checked, an absent symbol is fatal. -/
def execPosof (v : Sym) (s : State) : StepResult :=
  configured s fun sz =>
    if s.status.gridvalid = false then fail .noState noFindings s
    else
      match posof sz s.grid v with
      | none => fatal s
      | some p => succeed { s with rpos := p }

/-- ROTR `line, n` and ROTR.M `line, n` (R133): `M` alone selects the marker adjustment. -/
def execRotr (m : Bool) (line : BitVec 3) (n : Int) (s : State) : StepResult :=
  configured s fun sz =>
    if lineInRange sz line = false then fail .badOperand noFindings s
    else if s.status.gridvalid = false then fail .noState noFindings s
    else
      succeed { s with
        grid := rotr sz s.grid line.toNat n
        marker := if m then mkr sz s.marker line.toNat n else s.marker }

/-- ROTC `line, n` and ROTC.M `line, n` (R134). -/
def execRotc (m : Bool) (line : BitVec 3) (n : Int) (s : State) : StepResult :=
  configured s fun sz =>
    if lineInRange sz line = false then fail .badOperand noFindings s
    else if s.status.gridvalid = false then fail .noState noFindings s
    else
      succeed { s with
        grid := rotc sz s.grid line.toNat n
        marker := if m then mkc sz s.marker line.toNat n else s.marker }

/-- MKADV `s` (R135). -/
def execMkadv (v : Sym) (s : State) : StepResult :=
  configured s fun sz =>
    if symInRange sz v = false then fail .badOperand noFindings s
    else if s.status.gridvalid = false then fail .noState noFindings s
    else succeed { s with marker := padd sz s.marker (ix sz v) }

end Sys2Proof.Machine
end

