-- ==== Sys2Proof/Machine/Cipher.lean ====
section
/-! DEFINITION. The per-symbol step (42_cipher_step R170 to R176) and its fold over a message (43_message_commands R191). -/

namespace Sys2Proof.Machine

/-- A working state `(G, M)` (10_state R41). -/
structure Work where
  grid : Grid
  marker : Pos
deriving DecidableEq, Repr

/-- `mix(G, M)`, the keystream offset (R170). -/
def mix (sz : GridSize) (W : Work) : Pos := ix sz (symat sz W.grid W.marker)

/-- A marker adjustment that only the co-rotating mode makes (R176). -/
def adjust (mode : MarkerMode) (moved M : Pos) : Pos :=
  match mode with
  | .stationary => M
  | .coRotating => moved

/-- `tail(G, M, pp, c)`, steps 4 to 6 of both directions (R171); none when its `posof` fails. -/
def tail (sz : GridSize) (mode : MarkerMode) (W : Work) (pp : Pos) (c : Sym) : Option Work :=
  let G1 := rotr sz W.grid pp.row.toNat 1
  let M1 := adjust mode (mkr sz W.marker pp.row.toNat 1) W.marker
  match posof sz G1 c with
  | none => none
  | some cp' =>
    let G2 := rotc sz G1 cp'.col.toNat 1
    let M2 := adjust mode (mkc sz M1 cp'.col.toNat 1) M1
    some ⟨G2, padd sz M2 (ix sz c)⟩

/-- `encstep(G, M, p)` (R172): the state after the step and the ciphertext symbol; none when a `posof` fails. -/
def encstep (sz : GridSize) (mode : MarkerMode) (W : Work) (p : Sym) : Option (Work × Sym) :=
  match posof sz W.grid p with
  | none => none
  | some pp =>
    let c := symat sz W.grid (padd sz pp (mix sz W))
    match tail sz mode W pp c with
    | none => none
    | some W' => some (W', c)

/-- `decstep(G, M, c)` (R173): the state after the step and the plaintext symbol; none when a `posof` fails. -/
def decstep (sz : GridSize) (mode : MarkerMode) (W : Work) (c : Sym) : Option (Work × Sym) :=
  match posof sz W.grid c with
  | none => none
  | some cp =>
    let pp := psub sz cp (mix sz W)
    match tail sz mode W pp c with
    | none => none
    | some W' => some (W', symat sz W.grid pp)

/-- The serial fold of a step over symbols, in order, with the outputs (R191 step 3, R275); none when a step is fatal. -/
def foldSteps (step : Work → Sym → Option (Work × Sym)) : Work → List Sym → Option (Work × List Sym)
  | W, [] => some (W, [])
  | W, x :: xs =>
    match step W x with
    | none => none
    | some (W', y) =>
      match foldSteps step W' xs with
      | none => none
      | some (W'', ys) => some (W'', y :: ys)

/-- Encryption of a nonce of `n` symbols and what follows it (R196, R197): the wire message. -/
def encryptWithNonce (sz : GridSize) (mode : MarkerMode) (nmode : NonceMode) (n : Nat) (W : Work) (inp : List Sym) :
    Option (Work × List Sym) :=
  match nmode with
  | .modeA =>
    match foldSteps (encstep sz mode) W (inp.take n) with
    | none => none
    | some (W1, _) =>
      match foldSteps (encstep sz mode) W1 (inp.drop n) with
      | none => none
      | some (W2, body) => some (W2, inp.take n ++ body)
  | .modeB => foldSteps (encstep sz mode) W inp

/-- Decryption of a wire message with a prefix of `n` symbols (R198, R199): the plaintext. -/
def decryptWithNonce (sz : GridSize) (mode : MarkerMode) (nmode : NonceMode) (n : Nat) (W : Work) (inp : List Sym) :
    Option (Work × List Sym) :=
  match nmode with
  | .modeA =>
    match foldSteps (encstep sz mode) W (inp.take n) with
    | none => none
    | some (W1, _) => foldSteps (decstep sz mode) W1 (inp.drop n)
  | .modeB =>
    match foldSteps (decstep sz mode) W inp with
    | none => none
    | some (W1, out) => some (W1, out.drop n)

end Sys2Proof.Machine
end

