-- ==== Sys2Proof/Machine/KeyFold.lean ====
section
/-! DEFINITION. Key derivation and key validation (41_key_derivation R150, R151). -/

namespace Sys2Proof.Machine

/-- The permutation fold from grid `G` with the cycling index at `i` (R150). -/
def deriveFrom (sz : GridSize) (i : Nat) (G : Grid) : List Sym → Grid
  | [] => G
  | v :: kw =>
    deriveFrom sz ((i + 1) % sz.side) (rotc sz (rotr sz G i (ix sz v).col.toNat) i (ix sz v).row.toNat) kw

/-- `derive(kw, L)`, the permutation fold over a keyword (R150). -/
def derive (sz : GridSize) (kw : List Sym) : Grid := deriveFrom sz 0 (identityGrid sz) kw

/-- `cnt[v]`: how often code `v` occurs (R151). -/
def occurrences (buf : List Sym) (v : Nat) : Nat := buf.countP (fun x => x.toNat == v)

/-- `keycheck(buf, L)`: illegal, missing and duplicated codes, all three complete (R151). -/
def keycheck (sz : GridSize) (buf : List Sym) : Findings where
  ill := badset sz buf
  miss := symSetOf fun v => decide (v < sz.count) && decide (occurrences buf v = 0)
  dup := symSetOf fun v => decide (v < sz.count) && decide (2 ≤ occurrences buf v)

end Sys2Proof.Machine
end

