-- ==== Sys2Proof/Machine/KeyCmds.lean ====
section
/-! DEFINITION. The key commands INIT, KEYLIT, KEYDRV and CHKKEY (41_key_derivation R152 to R155). -/

namespace Sys2Proof.Machine

/-- The three assignments that start a call: `GRID[0..N-1] <- KEY[0..N-1]`, `MARKER <- (0,0)`, `GRIDVALID <- 1` (R152). -/
def startCall (sz : GridSize) (s : State) : State :=
  { s with
    grid := storeCells sz.count (cell s.key) s.grid
    marker := ⟨0, 0⟩
    status := { s.status with gridvalid := true } }

/-- `KEY[0..N-1] <- f`, `KEYVALID <- 1` (R153, R154). -/
def loadKey (sz : GridSize) (f : Nat → Sym) (s : State) : State :=
  { s with key := storeCells sz.count f s.key, status := { s.status with keyvalid := true } }

/-- INIT (R152). -/
def execInit (s : State) : StepResult :=
  configured s fun sz =>
    if s.status.keyvalid = false then fail .noKey noFindings s
    else succeed (startCall sz s)

/-- KEYLIT (R153). -/
def execKeylit (s : State) : StepResult :=
  configured s fun sz =>
    let f := keycheck sz (input s)
    if f = noFindings then succeed { startCall sz (loadKey sz (ibufAt s) s) with idx := s.len }
    else failKeyInput .invalidKey f s

/-- KEYDRV (R154). -/
def execKeydrv (s : State) : StepResult :=
  configured s fun sz =>
    let bad := badset sz (input s)
    if bad = 0 then succeed { startCall sz (loadKey sz (cell (derive sz (input s))) s) with idx := s.len }
    else failKeyInput .invalidKeyword (illFindings bad) s

/-- CHKKEY (R155). -/
def execChkkey (s : State) : StepResult :=
  configured s fun sz =>
    let f := keycheck sz (input s)
    if f = noFindings then succeed { s with idx := s.len } else failKeyInput .invalidKey f s

end Sys2Proof.Machine
end

