-- ==== Sys2Proof/Machine/MessageCmds.lean ====
section
/-! DEFINITION. The whole-message commands ENC, DEC, ENCN, DECN and CHKMSG (43_message_commands R190 to R204). -/

namespace Sys2Proof.Machine

/-- Steps 2 to 4 of R191: start the call, run `run` on the fresh working state, store the outputs from element 0 of `OBUF` on,
`OLEN <- olen`, `IDX <- LEN`; fatal when the run has no result (60_exceptions R234). -/
def runMessage (sz : GridSize) (run : Work → Option (Work × List Sym)) (olen : Count) (s : State) : State :=
  let s1 := startCall sz s
  match run ⟨s1.grid, s1.marker⟩ with
  | none => fatalInMessage s
  | some (W, out) =>
    succeed { s1 with
      grid := W.grid, marker := W.marker, obuf := bufPutFrom s.obuf 0 out, olen := olen, idx := s.len }

/-- ENC (R192). -/
def execEnc (s : State) : StepResult :=
  configured s fun sz =>
    if s.status.keyvalid = false then fail .noKey noFindings s
    else
      let bad := badset sz (input s)
      if bad = 0 then runMessage sz (fun W => foldSteps (encstep sz s.config.mmode) W (input s)) s.len s
      else failMessageInput .invalidPlaintext bad s

/-- DEC (R193). -/
def execDec (s : State) : StepResult :=
  configured s fun sz =>
    if s.status.keyvalid = false then fail .noKey noFindings s
    else
      let bad := badset sz (input s)
      if bad = 0 then runMessage sz (fun W => foldSteps (decstep sz s.config.mmode) W (input s)) s.len s
      else failMessageInput .invalidCiphertext bad s

/-- ENCN (R200): the nonce stretch is checked before the plaintext. -/
def execEncn (s : State) : StepResult :=
  configured s fun sz =>
    if s.len.toNat < s.nlen.toNat then fail .badLength noFindings s
    else if s.status.keyvalid = false then fail .noKey noFindings s
    else
      let badn := badset sz (stretch 0 s.nlen.toNat (input s))
      let badp := badset sz (stretch s.nlen.toNat s.len.toNat (input s))
      if badn ≠ 0 then failMessageInput .invalidNonce badn s
      else if badp ≠ 0 then failMessageInput .invalidPlaintext badp s
      else
        runMessage sz (fun W => encryptWithNonce sz s.config.mmode s.config.nmode s.nlen.toNat W (input s)) s.len s

/-- The input check of DECN: in Mode A the prefix is a clear nonce, in Mode B the whole wire message is ciphertext (R201). -/
def wireCheck (sz : GridSize) (nmode : NonceMode) (n len : Nat) (inp : List Sym) : Option (CmdError × SymSet) :=
  match nmode with
  | .modeA =>
    let badn := badset sz (stretch 0 n inp)
    let badc := badset sz (stretch n len inp)
    if badn ≠ 0 then some (.invalidNonce, badn) else if badc ≠ 0 then some (.invalidCiphertext, badc) else none
  | .modeB =>
    let badc := badset sz (stretch 0 len inp)
    if badc ≠ 0 then some (.invalidCiphertext, badc) else none

/-- DECN (R201). -/
def execDecn (s : State) : StepResult :=
  configured s fun sz =>
    if s.len.toNat < s.nlen.toNat then fail .badLength noFindings s
    else if s.status.keyvalid = false then fail .noKey noFindings s
    else
      match wireCheck sz s.config.nmode s.nlen.toNat s.len.toNat (input s) with
      | some (e, bad) => failMessageInput e bad s
      | none =>
        runMessage sz (fun W => decryptWithNonce sz s.config.mmode s.config.nmode s.nlen.toNat W (input s)) (s.len - s.nlen) s

/-- CHKMSG `kind` (R202). -/
def execChkmsg (kind : BitVec 2) (s : State) : StepResult :=
  configured s fun sz =>
    match msgKind kind with
    | none => fail .badOperand noFindings s
    | some k =>
      let bad := badset sz (input s)
      if bad = 0 then succeed { s with idx := s.len } else failKeyInput (msgKindError k) (illFindings bad) s

end Sys2Proof.Machine
end

