-- ==== Sys2Proof/Machine/StepCmds.lean ====
section
/-! DEFINITION. The step commands ENC1 and DEC1 (42_cipher_step R177, R178). -/

namespace Sys2Proof.Machine

/-- A step applied to the working state of `s`, its result into `GRID`, `MARKER`, `RSYM` (R177, R178); fatal when it has none
(60_exceptions R234). -/
def applyStep (step : Work → Sym → Option (Work × Sym)) (v : Sym) (s : State) : State :=
  match step ⟨s.grid, s.marker⟩ v with
  | none => fatalInStep s
  | some (W, y) => succeed { s with grid := W.grid, marker := W.marker, rsym := y }

/-- The one-element set of an illegal operand (R177, R178). -/
def operandSet (v : Sym) : SymSet := symSetOf fun k => k == v.toNat

/-- ENC1 `s` (R177). -/
def execEnc1 (v : Sym) (s : State) : StepResult :=
  configured s fun sz =>
    if s.status.gridvalid = false then fail .noState noFindings s
    else if symInRange sz v = false then fail .invalidPlaintext (illFindings (operandSet v)) s
    else applyStep (encstep sz s.config.mmode) v s

/-- DEC1 `s` (R178). -/
def execDec1 (v : Sym) (s : State) : StepResult :=
  configured s fun sz =>
    if s.status.gridvalid = false then fail .noState noFindings s
    else if symInRange sz v = false then fail .invalidCiphertext (illFindings (operandSet v)) s
    else applyStep (decstep sz s.config.mmode) v s

end Sys2Proof.Machine
end

