-- ==== Sys2Proof/Machine/Dispatch.lean ====
section
/-! DEFINITION. `exec`: the completion of a command (60_exceptions R222), one arm per command of the opcode map. -/

namespace Sys2Proof.Machine

def exec (i : Instr) (s : State) : Host.Outcome State Fault Refusal :=
  match i with
  | .init => Sys2Proof.Machine.execInit s
  | .keylit => Sys2Proof.Machine.execKeylit s
  | .keydrv => Sys2Proof.Machine.execKeydrv s
  | .chkkey => Sys2Proof.Machine.execChkkey s
  | .chkmsg kind => Sys2Proof.Machine.execChkmsg kind s
  | .symat row col => Sys2Proof.Machine.execSymat row col s
  | .posof v => Sys2Proof.Machine.execPosof v s
  | .rotr m line n => Sys2Proof.Machine.execRotr m line n s
  | .rotc m line n => Sys2Proof.Machine.execRotc m line n s
  | .mkadv v => Sys2Proof.Machine.execMkadv v s
  | .enc1 v => Sys2Proof.Machine.execEnc1 v s
  | .dec1 v => Sys2Proof.Machine.execDec1 v s
  | .enc => Sys2Proof.Machine.execEnc s
  | .dec => Sys2Proof.Machine.execDec s
  | .encn => Sys2Proof.Machine.execEncn s
  | .decn => Sys2Proof.Machine.execDecn s

end Sys2Proof.Machine
end

