-- ==== Sys2Proof/Machine/HostPort.lean ====
section
/-! DEFINITION. The host's register interface: the address map, reads and writes (20_memory R60 to R72). -/

namespace Sys2Proof.Machine

/-- What a mapped word address names (20_memory R64). -/
inductive Reg where
  | id
  | cap
  | config
  | ctrl
  | status
  | ecode
  | ien
  | cmd
  | len
  | nlen
  | olen
  | idx
  | rsym
  | rpos
  | marker
  | findIllLo
  | findIllHi
  | findMissLo
  | findMissHi
  | findDupLo
  | findDupHi
  | key (k : Nat)
  | grid (k : Nat)
  | ibuf (k : Nat)
  | obuf (k : Nat)
deriving DecidableEq, Repr

/-- The named registers, `0x0000 .. 0x0015` (R64); `0x000F` is unmapped. -/
def lowReg : Nat → Option Reg
  | 0x00 => some .id
  | 0x01 => some .cap
  | 0x02 => some .config
  | 0x03 => some .ctrl
  | 0x04 => some .status
  | 0x05 => some .ecode
  | 0x06 => some .ien
  | 0x07 => some .cmd
  | 0x08 => some .len
  | 0x09 => some .nlen
  | 0x0A => some .olen
  | 0x0B => some .idx
  | 0x0C => some .rsym
  | 0x0D => some .rpos
  | 0x0E => some .marker
  | 0x10 => some .findIllLo
  | 0x11 => some .findIllHi
  | 0x12 => some .findMissLo
  | 0x13 => some .findMissHi
  | 0x14 => some .findDupLo
  | 0x15 => some .findDupHi
  | _ => none

/-- The address map (R64); none is an unmapped address. Element `k` of a buffer is mapped when `k < BUF_DEPTH`. -/
def mapped (addr : Addr) : Option Reg :=
  let a := addr.toNat
  if a < 0x40 then lowReg a
  else if a < 0x80 then some (.key (a - 0x40))
  else if a < 0xC0 then some (.grid (a - 0x80))
  else if a < 0x1000 then none
  else if a < 0x2000 then if Config.fits (a - 0x1000 + 1) then some (.ibuf (a - 0x1000)) else none
  else if a < 0x3000 then if Config.fits (a - 0x2000 + 1) then some (.obuf (a - 0x2000)) else none
  else none

/-- `ID` (10_state R24). -/
def idWord : Word := 0x4C533437

/-- `CAP` (10_state R25). -/
def capWord : Word := BitVec.ofNat 32 Config.bufDepth

/-- `N`, or 0 while the block is unconfigured: how many elements of a grid window can be shown (10_state R38, R39). -/
def visibleCells (s : State) : Nat :=
  match s.config.size with
  | none => 0
  | some sz => sz.count

/-- An element of a grid window: 0 while the grid is not valid, and at and above `N` (20_memory R65, R71). -/
def windowWord (valid : Bool) (s : State) (G : Grid) (k : Nat) : Word :=
  if valid = true ∧ k < visibleCells s then (cell G k).zeroExtend 32 else 0

/-- The low word of a finding set (10_state R42). -/
def lowWord (v : SymSet) : Word := v.extractLsb' 0 32

/-- The high word of a finding set (10_state R42). -/
def highWord (v : SymSet) : Word := v.extractLsb' 32 32

/-- What a host read of a mapped address returns while the engine is idle (20_memory R62, 10_state R24 to R44). -/
def readReg (s : State) : Reg → Word
  | .id => idWord
  | .cap => capWord
  | .config => configWord s.config
  | .ctrl => 0
  | .status => statusWord s.status
  | .ecode => s.ecode.zeroExtend 32
  | .ien => ienWord s.ien
  | .cmd => s.cmd
  | .len => s.len.zeroExtend 32
  | .nlen => s.nlen.zeroExtend 32
  | .olen => s.olen.zeroExtend 32
  | .idx => s.idx.zeroExtend 32
  | .rsym => s.rsym.zeroExtend 32
  | .rpos => posWord s.rpos
  | .marker => if s.status.gridvalid then posWord s.marker else 0
  | .findIllLo => lowWord s.find.ill
  | .findIllHi => highWord s.find.ill
  | .findMissLo => lowWord s.find.miss
  | .findMissHi => highWord s.find.miss
  | .findDupLo => lowWord s.find.dup
  | .findDupHi => highWord s.find.dup
  | .key k => windowWord s.status.keyvalid s s.key k
  | .grid k => windowWord s.status.gridvalid s s.grid k
  | .ibuf k => (ibufAt s k).zeroExtend 32
  | .obuf k => (obufAt s k).zeroExtend 32

/-- The registers whose reads are defined while the engine is busy (20_memory R72). -/
def readableWhileBusy : Reg → Bool
  | .id => true
  | .cap => true
  | .status => true
  | _ => false

/-- `MemRead(addr, 1)`: the word goes to `rdata` (20_memory R62). An unmapped address is refused and returns 0 (R66); while busy,
a mapped register other than `ID`, `CAP`, `STATUS` returns a fresh unspecified word (R72, log entry 8). -/
def busRead (addr : Addr) (s : State) : State :=
  match mapped addr with
  | none => refuse { s with rdata := 0 }
  | some r =>
    if s.status.busy = true ∧ readableWhileBusy r = false then { s with rdata := Config.busyRead s.draws, draws := s.draws + 1 }
    else { s with rdata := readReg s r }

/-- A legal `CONFIG` write (10_state R26): it discards the working state, and the key when `SIZE` changes. -/
def writeConfig (c : ConfigReg) (s : State) : State :=
  { s with
    config := c
    status := { s.status with
      gridvalid := false
      keyvalid := if c.size = s.config.size then s.status.keyvalid else false } }

/-- `CTRL` (10_state R27): 1 is the soft reset, 0 does nothing, any other word is refused. -/
def writeCtrl (w : Word) (s : State) : State := if w = 1 then softReset s else if w = 0 then s else refuse s

/-- `STATUS` (10_state R28): a 1 in bit 1 clears `DONE`, a 1 in bit 6 clears `BUSERR`, every other bit is ignored. -/
def writeStatus (w : Word) (s : State) : State :=
  { s with
    status := { s.status with
      done := s.status.done && !w.getLsbD 1
      buserr := s.status.buserr && !w.getLsbD 6 } }

/-- `IEN` (10_state R30). -/
def writeIen (w : Word) (s : State) : State :=
  if w.extractLsb' 3 29 = 0 then { s with ien := ⟨w.getLsbD 0, w.getLsbD 1, w.getLsbD 2⟩ } else refuse s

/-- `CMD` (10_state R31): the issue of a command, refused while the block is in the fatal state (60_exceptions R221). -/
def writeCmd (w : Word) (s : State) : State := if s.status.fatal = true then refuse s else accept w s

/-- `MemWrite(addr, 1, w)` to a mapped address while the engine is idle (20_memory R63). -/
def writeReg (w : Word) (s : State) : Reg → State
  | .config =>
    match configOfWord w with
    | none => refuse s
    | some c => writeConfig c s
  | .ctrl => writeCtrl w s
  | .status => writeStatus w s
  | .ien => writeIen w s
  | .cmd => writeCmd w s
  | .len => if Config.fits w.toNat then { s with len := BitVec.ofNat 13 w.toNat } else refuse s
  | .nlen => if Config.fits w.toNat then { s with nlen := BitVec.ofNat 13 w.toNat } else refuse s
  | .ibuf k => if w.toNat ≤ 63 then { s with ibuf := bufPut s.ibuf k (BitVec.ofNat 6 w.toNat) } else refuse s
  | .id => refuse s
  | .cap => refuse s
  | .ecode => refuse s
  | .olen => refuse s
  | .idx => refuse s
  | .rsym => refuse s
  | .rpos => refuse s
  | .marker => refuse s
  | .findIllLo => refuse s
  | .findIllHi => refuse s
  | .findMissLo => refuse s
  | .findMissHi => refuse s
  | .findDupLo => refuse s
  | .findDupHi => refuse s
  | .key _ => refuse s
  | .grid _ => refuse s
  | .obuf _ => refuse s

/-- `MemWrite(addr, 1, w)` (20_memory R63): every write is refused while the engine is busy (R72). -/
def busWrite (addr : Addr) (w : Word) (s : State) : State :=
  if s.status.busy = true then refuse s
  else
    match mapped addr with
    | none => refuse s
    | some r => writeReg w s r

end Sys2Proof.Machine
end

