-- ==== Sys2Proof/Machine/Engine.lean ====
section
/-! DEFINITION. The engine's turn and the events of the agenda (60_exceptions R222, 20_memory R73). -/

namespace Sys2Proof.Machine

/-- The completion of the command in flight: its word is in `CMD` (10_state R31). An illegal word fails `IllegalCommand`, whatever
the configuration (60_exceptions R224 check 1, R236). -/
def complete (s : State) : StepResult :=
  match decode s.cmd with
  | .ok i => exec i s
  | .error _ => .next (fail .illegalCommand noFindings s)

/-- The engine's turn: a busy engine completes its command, an idle one waits (00_scope R15). -/
def engineTurn (s : State) : StepResult := if s.status.busy = true then complete s else .next s

/-- One event happens. -/
def handle (e : Event) (s : State) : StepResult :=
  match e with
  | .read addr => .next (busRead addr s)
  | .write addr w => .next (busWrite addr w s)
  | .hardReset => .next (hardReset s)
  | .engine => engineTurn s

/-- The agenda with the engine's turn next: an empty agenda says so already (log entry 2). -/
def engineFirst : List Event → List Event
  | [] => []
  | e :: rest => .engine :: e :: rest

/-- `s` with the command word `w` accepted and the engine's turn next (log entry 18). -/
def withCommand (w : Word) (s : State) : State := accept w { s with agenda := engineFirst s.agenda }

end Sys2Proof.Machine
end

