-- ==== Sys2Proof/Machine/Step.lean ====
section
/-! DEFINITION. The step: the next event of the agenda happens. -/

namespace Sys2Proof.Machine

/-- One step: the first event of the agenda; with nothing on the agenda, the engine's turn, so that a command in flight completes
(70_reset_and_hazards R272, log entry 2) and an idle machine waits (log entry 3). -/
def step (s : State) : Host.Outcome State Fault Refusal :=
  match s.agenda with
  | [] => engineTurn s
  | e :: rest => handle e { s with agenda := rest }

/-- `s` with the command of an opcode-table row accepted, so that the very next step completes it (log entry 18). -/
def State.withFetchWord (s : State) (nbits w : Nat) : State := withCommand (tableWord nbits w) s

end Sys2Proof.Machine
end

