-- ==== Sys2Proof/Machine/HostProgram.lean ====
section
/-! DEFINITION. Host programs in the notation of 30_encoding R100, as the events they put on the agenda. The notation belongs to the
spec's listings, not to the block. -/

namespace Sys2Proof.Machine

/-- The word address of a register (20_memory R64). -/
def addrOf : Reg → Addr
  | .id => 0x0000
  | .cap => 0x0001
  | .config => 0x0002
  | .ctrl => 0x0003
  | .status => 0x0004
  | .ecode => 0x0005
  | .ien => 0x0006
  | .cmd => 0x0007
  | .len => 0x0008
  | .nlen => 0x0009
  | .olen => 0x000A
  | .idx => 0x000B
  | .rsym => 0x000C
  | .rpos => 0x000D
  | .marker => 0x000E
  | .findIllLo => 0x0010
  | .findIllHi => 0x0011
  | .findMissLo => 0x0012
  | .findMissHi => 0x0013
  | .findDupLo => 0x0014
  | .findDupHi => 0x0015
  | .key k => BitVec.ofNat 14 (0x0040 + k)
  | .grid k => BitVec.ofNat 14 (0x0080 + k)
  | .ibuf k => BitVec.ofNat 14 (0x1000 + k)
  | .obuf k => BitVec.ofNat 14 (0x2000 + k)

/-- A line of a host program (R100). -/
inductive Line where
  /-- `WR name, value`. -/
  | wr (r : Reg) (w : Word)
  /-- `RD name`. -/
  | rd (r : Reg)
  /-- A command: `WR CMD, <its word>` followed by `WAIT`. -/
  | command (i : Instr)
  /-- `WAIT`: read `STATUS` until `BUSY` is 0. -/
  | wait
  /-- `LOAD [c0, c1, ...]`: `IBUF[k] <- c_k` for every `k` in order, then `LEN <-` their number. -/
  | load (codes : List Sym)
deriving DecidableEq, Repr

/-- `WAIT` on this model's agenda: the engine takes its turn, after which one read of `STATUS` shows `BUSY = 0` (log entry 1). -/
def waitEvents : List Event := [.engine, .read (addrOf .status)]

/-- The writes of `IBUF` from element `k` on. -/
def loadEvents (k : Nat) : List Sym → List Event
  | [] => []
  | v :: vs => .write (addrOf (.ibuf k)) (v.zeroExtend 32) :: loadEvents (k + 1) vs

/-- The events of one line (R100). -/
def lineEvents : Line → List Event
  | .wr r w => [.write (addrOf r) w]
  | .rd r => [.read (addrOf r)]
  | .command i => .write (addrOf .cmd) (encode i) :: waitEvents
  | .wait => waitEvents
  | .load codes => loadEvents 0 codes ++ [.write (addrOf .len) (BitVec.ofNat 32 codes.length)]

/-- The events of a host program, line after line (R100). -/
def programEvents (lines : List Line) : List Event := lines.flatMap lineEvents

/-- `s` with a host program put at the end of its agenda (log entry 1). -/
def withProgram (lines : List Line) (s : State) : State := { s with agenda := s.agenda ++ programEvents lines }

/-- The canonical alphabet of size 6, code 0 first (00_scope R9). The block does not hold it. -/
def alphabet6 : List Char := "#_23456789abcdefghijklmnopqrstuvwxyz".toList

/-- The codes of a text over the size-6 alphabet, none if a character is not in it (00_scope R9, 30_encoding R98, R100). -/
def codesOfText (text : String) : Option (List Sym) :=
  text.toList.mapM fun ch => (alphabet6.findIdx? (fun x => x == ch)).map (BitVec.ofNat 6)

end Sys2Proof.Machine
end

