-- ==== Sys2Proof/Machine/Instances.lean ====
section
/-! DEFINITION. Several block instances (60_exceptions R249): whole separate blocks, of which one takes a step at a time. -/

namespace Sys2Proof.Machine

/-- Instance `k` takes a step; the others share nothing with it (R249, log entry 16). A number that names no instance names no
step. -/
def stepInstance (k : Nat) (ss : List State) : Host.Outcome (List State) Fault Refusal :=
  match ss[k]? with
  | none => .next ss
  | some s =>
    match step s with
    | .next t => .next (ss.set k t)
    | .fault r => .fault r
    | .refused r => .refused r

end Sys2Proof.Machine
end

