-- ==== Sys2Proof/Safety.lean ====
section
/-! DEFINITION. What a safe state and a safe run are: the invariants the spec gives the state, and that a step completes. -/

namespace Sys2Proof.Machine

/-- A valid grid: cells `0 .. N-1` are a permutation of the codes `0 .. N-1` (00_scope R13): every code is `< N` and no two cells
hold the same code. -/
abbrev gridValid (sz : GridSize) (G : Grid) : Prop :=
  (∀ k, k < sz.count → (cell G k).toNat < sz.count) ∧
    ∀ j, j < sz.count → ∀ k, k < sz.count → cell G j = cell G k → j = k

/-- A position: both components `< size` (00_scope R12). -/
abbrev posValid (sz : GridSize) (p : Pos) : Prop := p.row.toNat < sz.side ∧ p.col.toNat < sz.side

/-- Every element of a buffer lies below `BUF_DEPTH` (10_state R43, R44). -/
abbrev withinDepth (m : Memory) : Prop := ∀ c ∈ m, c.1 < Config.bufDepth

/-- The invariant of the state. -/
structure Inv (s : State) : Prop where
  /-- 10_state R46, for `KEY`. -/
  key_valid : s.status.keyvalid = true → ∃ sz, s.config.size = some sz ∧ gridValid sz s.key
  /-- 10_state R46, for `GRID` and `MARKER`. -/
  grid_valid : s.status.gridvalid = true → ∃ sz, s.config.size = some sz ∧ gridValid sz s.grid ∧ posValid sz s.marker
  /-- A working state comes from a key that is still loaded (10_state R28, the setters of `GRIDVALID`). -/
  grid_has_key : s.status.gridvalid = true → s.status.keyvalid = true
  /-- `ERR` always equals `(ECODE[7:0] != 0)` (10_state R28). -/
  err_iff : s.status.err = true ↔ ecodeCode s.ecode ≠ 0
  /-- `F_ILL`, `F_MISS`, `F_DUP` say which finding sets are non-empty (10_state R29). -/
  flags_ok : s.ecode = ecodeOf (ecodeCode s.ecode) s.find
  /-- Every code not in the table is never produced (60_exceptions R225). -/
  code_known : ecodeCode s.ecode = 0 ∨ ecodeCode s.ecode = symbolNotFoundCode ∨ ∃ e, ecodeCode s.ecode = errorCode e
  /-- In the fatal state no command is in flight and the code is `SymbolNotFound` (60_exceptions R221, R234). -/
  fatal_ok : s.status.fatal = true → s.status.busy = false ∧ ecodeCode s.ecode = symbolNotFoundCode
  /-- While a command is in flight `DONE` is 0 (60_exceptions R221). -/
  busy_ok : s.status.busy = true → s.status.done = false
  /-- Lengths and the cursor are at most `BUF_DEPTH` (10_state R32 to R34, R36). -/
  len_le : s.len.toNat ≤ Config.bufDepth
  nlen_le : s.nlen.toNat ≤ Config.bufDepth
  olen_le : s.olen.toNat ≤ Config.bufDepth
  idx_le : s.idx.toNat ≤ Config.bufDepth
  /-- The buffers are canonical and hold elements below `BUF_DEPTH` only. -/
  ibuf_wf : s.ibuf.wf
  obuf_wf : s.obuf.wf
  ibuf_within : withinDepth s.ibuf
  obuf_within : withinDepth s.obuf

/-- A state from which the next step completes: the machine never stops (70_reset_and_hazards R276). -/
def progresses (s : State) : Prop := ∃ t, step s = .next t

/-- A safe state: the invariant holds and the next step completes. -/
def safe (s : State) : Prop := Inv s ∧ progresses s

end Sys2Proof.Machine
end

