-- ==== Sys2Proof/Certificates/Slice0/Obligations.lean ====
section
/-! DEFINITION. What is claimed of the machine: one `def Obligations.<Name> : Prop` per claim, stated in the spec's own terms. The
helpers under `Sys2Proof.Claims` write out the spec's outcomes and sets, so that a claim does not rest on the model's own text for
them. -/

namespace Sys2Proof.Claims

open Sys2Proof.Machine

/-- A successful completion (60_exceptions R222, R223): `BUSY <- 0`, `DONE <- 1`, `ERR <- 0`, `ECODE <- 0`, `FIND_* <- 0`; the rest
as in `s`, which already holds what the command wrote. -/
def done (s : State) : State :=
  { s with
    status := { s.status with busy := false, done := true, err := false }
    ecode := 0
    find := ⟨0, 0, 0⟩ }

/-- `ECODE` made of a code and three finding sets (10_state R29): the code in bits 7:0, the flags in bits 8, 9, 10. -/
def ecodeWith (code : BitVec 8) (f : Findings) : BitVec 11 :=
  BitVec.ofNat 11 (code.toNat + (if f.ill = 0 then 0 else 256) + (if f.miss = 0 then 0 else 512) + (if f.dup = 0 then 0 else 1024))

/-- A failed completion (60_exceptions R222, R230) with the given error code and findings. -/
def failed (code : BitVec 8) (f : Findings) (s : State) : State :=
  { s with
    status := { s.status with busy := false, done := true, err := true }
    ecode := ecodeWith code f
    find := f }

/-- No findings. -/
def none3 : Findings := ⟨0, 0, 0⟩

/-- `IBUF[lo .. hi-1]` holds alphabet symbols only (43_message_commands R190). -/
def clean (sz : GridSize) (s : State) (lo hi : Nat) : Prop := ∀ k, lo ≤ k → k < hi → (ibufAt s k).toNat < sz.count

/-- `bad` is the set of the codes `>= N` in `IBUF[lo .. hi-1]` (R190). -/
def isBadset (sz : GridSize) (s : State) (lo hi : Nat) (bad : SymSet) : Prop :=
  ∀ v, v < 64 → (bad.getLsbD v = true ↔ sz.count ≤ v ∧ ∃ k, lo ≤ k ∧ k < hi ∧ (ibufAt s k).toNat = v)

/-- The first `N` cells of `G` are those of `H`; the cells from `N` on are those of `old` (10_state R38, R39). -/
def copiedFrom (sz : GridSize) (G H old : Grid) : Prop :=
  (∀ k, k < sz.count → cell G k = cell H k) ∧ ∀ k, sz.count ≤ k → k < 64 → cell G k = cell old k

/-- A grid whose first `N` cells are the working copy of `KEY` that a call starts from, with the marker at `(0,0)`
(41_key_derivation R152). -/
def freshFrom (sz : GridSize) (s : State) (W : Work) : Prop := copiedFrom sz W.grid s.key s.grid ∧ W.marker = ⟨0, 0⟩

/-- The output buffer of `t` is that of `s` with `OBUF[k] <- f k` for `k < n` (43_message_commands R192). -/
def outputs (s t : State) (n : Nat) (f : Nat → Sym) : Prop :=
  (∀ k, k < n → obufAt t k = f k) ∧ ∀ k, n ≤ k → obufAt t k = obufAt s k

/-- `t` is a completed message command on `s`: success, with the working state `W`, the output length and the cursor written, the
output buffer being `t`'s own, every other piece of state as in `s` (43_message_commands R191, R192). -/
def messageDone (s t : State) (W : Work) (olen : Count) : Prop :=
  t = done { s with
    grid := W.grid, marker := W.marker, obuf := t.obuf, olen := olen, idx := s.len
    status := { s.status with gridvalid := true } }

/-- The host's next action is `e`, then whatever else is on the agenda. -/
def facing (s : State) (e : Event) (rest : List Event) : State := { s with agenda := e :: rest }

/-- An address of the map (20_memory R64): `ID` to `MARKER`, the finding words, the windows, the buffers. -/
def isMapped (a : Nat) : Prop :=
  a ≤ 0x0E ∨ (0x10 ≤ a ∧ a ≤ 0x15) ∨ (0x40 ≤ a ∧ a ≤ 0xBF) ∨ (0x1000 ≤ a ∧ a < 0x1000 + Config.bufDepth)
    ∨ (0x2000 ≤ a ∧ a < 0x2000 + Config.bufDepth)

/-- A read-only address (20_memory R66 case 2). -/
def isReadOnly (a : Nat) : Prop :=
  a = 0x00 ∨ a = 0x01 ∨ a = 0x05 ∨ (0x0A ≤ a ∧ a ≤ 0x0E) ∨ (0x10 ≤ a ∧ a ≤ 0x15) ∨ (0x40 ≤ a ∧ a ≤ 0xBF)
    ∨ (0x2000 ≤ a ∧ a < 0x2000 + Config.bufDepth)

/-- A value that is illegal for the register at an address (20_memory R66 case 3). -/
def isIllegalValue (a : Nat) (w : Word) : Prop :=
  (a = 0x02 ∧ ((w.extractLsb' 0 3 ≠ 6 ∧ w.extractLsb' 0 3 ≠ 7) ∨ w.extractLsb' 3 5 ≠ 0 ∨ w.extractLsb' 10 22 ≠ 0))
    ∨ (a = 0x03 ∧ w.extractLsb' 1 31 ≠ 0)
    ∨ (a = 0x06 ∧ w.extractLsb' 3 29 ≠ 0)
    ∨ ((a = 0x08 ∨ a = 0x09) ∧ Config.bufDepth < w.toNat)
    ∨ (0x1000 ≤ a ∧ a < 0x1000 + Config.bufDepth ∧ 63 < w.toNat)

/-- The writes that are refused (20_memory R66, cases 1 to 5). -/
def isRefusedWrite (s : State) (a : Nat) (w : Word) : Prop :=
  ¬ isMapped a ∨ isReadOnly a ∨ isIllegalValue a w ∨ s.status.busy = true ∨ (a = 0x07 ∧ s.status.fatal = true)

/-- The event is a host access: a read or a write. -/
def isAccess (e : Event) : Prop := (∃ a, e = .read a) ∨ ∃ a w, e = .write a w

/-- The command is one of the four message commands. -/
def isMessage (i : Instr) : Prop := i = .enc ∨ i = .dec ∨ i = .encn ∨ i = .decn

/-- The command is one of the eight buffer commands (10_state R36). -/
def isBufferCommand (i : Instr) : Prop :=
  isMessage i ∨ i = .keylit ∨ i = .keydrv ∨ i = .chkkey ∨ ∃ kind, i = .chkmsg kind

end Sys2Proof.Claims

open Sys2Proof Sys2Proof.Machine Sys2Proof.Claims

/-! ### Encoding -/

/-- Decoding the word of a command gives the command back, with every operand at every value the encoding admits
(30_encoding R91 to R94, R96). -/
def Obligations.DecodeOfEncodeIsTheCommand : Prop := ∀ i : Instr, i.wellFormed = true → decode (encode i) = .ok i

/-- A word that decodes is the word of the command it decodes to: the decoder drops no bit (30_encoding R92, R95). -/
def Obligations.DecodedWordIsTheCommandsWord : Prop :=
  ∀ (w : Word) (i : Instr), decode w = .ok i → i.wellFormed = true ∧ encode i = w

/-- A word is a command exactly when it satisfies a row of the opcode map, and then it satisfies the row of the command it decodes
to and no other (30_encoding R94, R96). -/
def Obligations.DecoderFollowsTheOpcodeMap : Prop :=
  ∀ w : Word,
    ((∃ i, decode w = .ok i) ↔ ∃ row ∈ opcodeRows, w &&& row.mask = row.wordMatch) ∧
      ∀ i, decode w = .ok i → ∀ row ∈ opcodeRows, (w &&& row.mask = row.wordMatch ↔ row = opcodeRow i)

/-- Words written out from the encodings decode to the commands they stand for (30_encoding R98, 95_test_vectors E4, E5). -/
def Obligations.WrittenOutWordsDecode : Prop :=
  decode 0x02000000 = .ok .keylit ∧ decode 0x05000001 = .ok (.chkmsg 1) ∧ decode 0x10000504 = .ok (.symat 5 4) ∧
    decode 0x120003FE = .ok (.rotr false 3 (-2)) ∧ decode 0x13010080 = .ok (.rotc true 0 (-128)) ∧
    decode 0x2000000A = .ok (.enc1 10) ∧ decode 0x33000000 = .ok .decn ∧ (∀ i, decode 0x00000000 ≠ .ok i) ∧
    (∀ i, decode 0x12020001 ≠ .ok i) ∧ ∀ i, decode 0x20000040 ≠ .ok i

/-! ### The step, acceptance and completion -/

/-- A step at which the engine has its turn, with a command in flight, is `exec` of the command that `CMD` decodes to. The engine has
its turn when it is next on the agenda, which then loses that entry, and when the agenda is empty (log entries 1 and 2). -/
def Obligations.StepRunsTheCommandInFlight : Prop :=
  ∀ (s : State) (i : Instr) (rest : List Event), s.status.busy = true → decode s.cmd = .ok i →
    step (facing s .engine rest) = exec i { s with agenda := rest } ∧ (s.agenda = [] → step s = exec i s)

/-- An illegal word in flight completes as failed `IllegalCommand`, even when the block is not configured, and changes nothing else
(60_exceptions R236, 30_encoding R95). -/
def Obligations.IllegalWordFails : Prop :=
  ∀ (s : State) (rest : List Event), s.status.busy = true → (∀ i, decode s.cmd ≠ .ok i) →
    step (facing s .engine rest) = .next (failed 0x10 none3 { s with agenda := rest })

/-- A write to `CMD` is accepted when the engine is idle and not fatal, and then changes `CMD`, `BUSY` and `DONE` alone; otherwise
it sets `BUSERR` alone (60_exceptions R221). -/
def Obligations.CommandAcceptance : Prop :=
  ∀ (s : State) (w : Word) (rest : List Event),
    (s.status.busy = false → s.status.fatal = false →
      step (facing s (.write 0x0007 w) rest)
        = .next { s with agenda := rest, cmd := w, status := { s.status with busy := true, done := false } }) ∧
      (s.status.busy = true ∨ s.status.fatal = true →
        step (facing s (.write 0x0007 w) rest) = .next { s with agenda := rest, status := { s.status with buserr := true } })

/-- An accepted command completes after finitely many steps unless a hard reset abandons it: no more than the agenda is long, plus
one (70_reset_and_hazards R272; that the engine has its turn when the agenda is empty is the model's choice, log entry 2). -/
def Obligations.AcceptedCommandCompletes : Prop :=
  ∀ s : State, s.status.busy = true → Event.hardReset ∉ s.agenda →
    ∃ k u t, k ≤ s.agenda.length ∧ core.run k s = .next u ∧ u.status.busy = true ∧ u.cmd = s.cmd ∧
      core.step u = .next t ∧ t.status.busy = false ∧ t.status.done = true

/-- Host accesses between acceptance and completion do not change what the command does: wherever the completion falls among them,
every piece of state but `BUSERR`, the word the last read returned (log entry 4) and the model's own counter `draws` of
unspecified words (log entry 8) is the same (93 U9, 20_memory R73). -/
def Obligations.CompletionIgnoresInterleaving : Prop :=
  ∀ (s : State) (accesses rest : List Event), s.status.busy = true → (∀ e ∈ accesses, isAccess e) →
    ∃ t u, core.run (accesses.length + 1) { s with agenda := accesses ++ .engine :: rest } = .next t ∧
      step (facing s .engine rest) = .next u ∧
      t = { u with status := { u.status with buserr := t.status.buserr }, rdata := t.rdata, draws := t.draws }

/-- Every step completes: no command word, operand or state stops the machine (70_reset_and_hazards R276). -/
def Obligations.EveryStepCompletes : Prop := ∀ s : State, ∃ t, step s = .next t

/-- Completion clears `BUSY` and sets `DONE`; no command writes `CONFIG`, `IEN`, `CMD`, `LEN`, `NLEN`, `IBUF`, `BUSERR` or anything of
the host's; and only a KEYLIT or a KEYDRV that succeeds changes `KEY` or `KEYVALID` (60_exceptions R222, 10_state R32, R33, R38,
R43). -/
def Obligations.CompletionWritesNoHostRegister : Prop :=
  ∀ (i : Instr) (s t : State), exec i s = .next t →
    t.status.busy = false ∧ t.status.done = true ∧ t.status.buserr = s.status.buserr ∧ t.config = s.config ∧ t.ien = s.ien ∧
      t.cmd = s.cmd ∧ t.len = s.len ∧ t.nlen = s.nlen ∧ t.ibuf = s.ibuf ∧ t.agenda = s.agenda ∧ t.rdata = s.rdata ∧
      t.draws = s.draws ∧ t.hardResets = s.hardResets ∧
      ((i ≠ .keylit ∧ i ≠ .keydrv) ∨ t.status.err = true → t.key = s.key ∧ t.status.keyvalid = s.status.keyvalid)

/-! ### Invariants -/

/-- Every step keeps the invariant: `KEY` and `GRID` valid while their flags say so and the marker on the grid (10_state R46),
`ERR` and the finding flags in step with `ECODE` (R28, R29), no command in flight in the fatal state, lengths within `BUF_DEPTH`,
the buffers canonical. -/
def Obligations.StepKeepsTheInvariant : Prop := ∀ s t : State, Inv s → step s = .next t → Inv t

/-- The reset state satisfies the invariant. -/
def Obligations.ResetSatisfiesTheInvariant : Prop := Inv State.reset

/-- A failed command, an illegal word included, changes nothing at its completion but `BUSY`, `DONE`, `ERR`, `ECODE`, `FIND_*` and,
for buffer commands, `IDX <- 0` and, for message commands, `OLEN <- 0` (60_exceptions R232). -/
def Obligations.FailureIsAtomic : Prop :=
  ∀ (s t : State) (rest : List Event), s.status.busy = true → step (facing s .engine rest) = .next t → t.status.err = true →
    ecodeCode t.ecode ≠ 0x05 →
    t = { s with
          agenda := rest
          status := { s.status with busy := false, done := true, err := true }
          ecode := t.ecode, find := t.find, olen := t.olen, idx := t.idx } ∧
      (t.olen = s.olen ∨ (t.olen = 0 ∧ ∃ i, decode s.cmd = .ok i ∧ isMessage i)) ∧
      (t.idx = s.idx ∨ (t.idx = 0 ∧ ∃ i, decode s.cmd = .ok i ∧ isBufferCommand i))

/-- In the fatal state no event but a reset has any effect on `FATAL`, on the command register, on the result registers or on the
grids, and no command is accepted (60_exceptions R234). -/
def Obligations.FatalLastsUntilReset : Prop :=
  ∀ (s t : State) (e : Event) (rest : List Event), s.status.fatal = true → s.status.busy = false →
    e ≠ .hardReset → e ≠ .write 0x0003 1 → step (facing s e rest) = .next t →
    t.status.fatal = true ∧ t.status.busy = false ∧ t.cmd = s.cmd ∧ t.ecode = s.ecode ∧ t.find = s.find ∧ t.olen = s.olen ∧
      t.idx = s.idx ∧ t.rsym = s.rsym ∧ t.rpos = s.rpos ∧ t.key = s.key ∧ t.grid = s.grid ∧ t.marker = s.marker ∧ t.obuf = s.obuf

/-! ### Reset -/

/-- The hard reset acts in every state: every register takes its reset value, a command in flight is abandoned, `irq` is low and the
grid windows read 0 (70_reset_and_hazards R260, 10_state R48). -/
def Obligations.HardResetFromAnyState : Prop :=
  ∀ (s : State) (rest : List Event), ∃ t, step (facing s .hardReset rest) = .next t ∧ t.agenda = rest ∧
    t.config = ⟨none, .stationary, .modeA⟩ ∧ t.status = ⟨false, false, false, false, false, false, false⟩ ∧ t.ecode = 0 ∧
    t.ien = ⟨false, false, false⟩ ∧ t.cmd = 0 ∧ t.len = 0 ∧ t.nlen = 0 ∧ t.olen = 0 ∧ t.idx = 0 ∧ t.rsym = 0 ∧ t.rpos = ⟨0, 0⟩ ∧
    t.marker = ⟨0, 0⟩ ∧ t.find = ⟨0, 0, 0⟩ ∧ irq t = false ∧
    ∀ k, k < 64 → readReg t (.key k) = 0 ∧ readReg t (.grid k) = 0

/-- A write of 1 to `CTRL` while the engine is idle, whatever `FATAL` is: every register takes its reset value, `KEY` and `GRID` are
erased, the buffers keep their contents (70_reset_and_hazards R261). While busy it is refused. -/
def Obligations.SoftResetErasesTheKey : Prop :=
  ∀ (s : State) (rest : List Event),
    (s.status.busy = false → ∃ t, step (facing s (.write 0x0003 1) rest) = .next t ∧ t.agenda = rest ∧
      t.config = ⟨none, .stationary, .modeA⟩ ∧ t.status = ⟨false, false, false, false, false, false, false⟩ ∧ t.ecode = 0 ∧
      t.ien = ⟨false, false, false⟩ ∧ t.cmd = 0 ∧ t.len = 0 ∧ t.nlen = 0 ∧ t.olen = 0 ∧ t.idx = 0 ∧ t.rsym = 0 ∧
      t.rpos = ⟨0, 0⟩ ∧ t.marker = ⟨0, 0⟩ ∧ t.find = ⟨0, 0, 0⟩ ∧ (∀ k, k < 64 → cell t.key k = 0 ∧ cell t.grid k = 0) ∧
      ∀ k, ibufAt t k = ibufAt s k ∧ obufAt t k = obufAt s k) ∧
      (s.status.busy = true →
        step (facing s (.write 0x0003 1) rest) = .next { s with agenda := rest, status := { s.status with buserr := true } })

/-! ### The host's register interface -/

/-- The address map: every word address of 20_memory R64 names its register, window cell or buffer element, and every other address
is unmapped. -/
def Obligations.AddressMapIsTheTable : Prop :=
  (∀ a : Addr, isMapped a.toNat ↔ ∃ r, mapped a = some r) ∧
    mapped 0x0000 = some .id ∧ mapped 0x0001 = some .cap ∧ mapped 0x0002 = some .config ∧ mapped 0x0003 = some .ctrl ∧
    mapped 0x0004 = some .status ∧ mapped 0x0005 = some .ecode ∧ mapped 0x0006 = some .ien ∧ mapped 0x0007 = some .cmd ∧
    mapped 0x0008 = some .len ∧ mapped 0x0009 = some .nlen ∧ mapped 0x000A = some .olen ∧ mapped 0x000B = some .idx ∧
    mapped 0x000C = some .rsym ∧ mapped 0x000D = some .rpos ∧ mapped 0x000E = some .marker ∧
    mapped 0x0010 = some .findIllLo ∧ mapped 0x0011 = some .findIllHi ∧ mapped 0x0012 = some .findMissLo ∧
    mapped 0x0013 = some .findMissHi ∧ mapped 0x0014 = some .findDupLo ∧ mapped 0x0015 = some .findDupHi ∧
    (∀ k, k < 64 → mapped (BitVec.ofNat 14 (0x0040 + k)) = some (.key k) ∧ mapped (BitVec.ofNat 14 (0x0080 + k)) = some (.grid k)) ∧
    ∀ k, k < Config.bufDepth →
      mapped (BitVec.ofNat 14 (0x1000 + k)) = some (.ibuf k) ∧ mapped (BitVec.ofNat 14 (0x2000 + k)) = some (.obuf k)

/-- A write is refused in exactly the cases of 20_memory R66: then it sets `BUSERR` and does nothing else, otherwise it does not set
`BUSERR`. -/
def Obligations.WritesAreRefusedExactly : Prop :=
  ∀ (s : State) (a : Addr) (w : Word) (rest : List Event),
    (isRefusedWrite s a.toNat w →
      step (facing s (.write a w) rest) = .next { s with agenda := rest, status := { s.status with buserr := true } }) ∧
      (¬ isRefusedWrite s a.toNat w →
        ∃ t, step (facing s (.write a w) rest) = .next t ∧ (t.status.buserr = true → s.status.buserr = true))

/-- A read is refused exactly at an unmapped address, where it returns 0 and sets `BUSERR`; no read changes anything else of the
block, busy or not. While idle a read returns what the register's rule gives; while busy a read of a mapped address other than `ID`,
`CAP` and `STATUS` returns a free value (20_memory R62, R66, R72); the counter of free values is the model's own (log entry 8). -/
def Obligations.ReadsHaveNoSideEffect : Prop :=
  ∀ (s : State) (a : Addr) (rest : List Event),
    (¬ isMapped a.toNat →
      step (facing s (.read a) rest) = .next { s with agenda := rest, rdata := 0, status := { s.status with buserr := true } }) ∧
      (isMapped a.toNat → s.status.busy = false →
        ∃ r, mapped a = some r ∧ step (facing s (.read a) rest) = .next { s with agenda := rest, rdata := readReg s r }) ∧
      (isMapped a.toNat → s.status.busy = true → a ≠ 0x0000 → a ≠ 0x0001 → a ≠ 0x0004 →
        ∃ t, step (facing s (.read a) rest) = .next t ∧
          t = { s with agenda := rest, rdata := t.rdata, draws := s.draws + 1 })

/-- `ID` reads `0x4C533437`, `CAP` reads `BUF_DEPTH`, a number from 64 to 4096, and `STATUS` reads as its seven flags in bits 0 to 6
and zeros above, whether the engine is busy or not (10_state R24, R25, R28, 20_memory R72). -/
def Obligations.IdentificationAndStatusRead : Prop :=
  64 ≤ Config.bufDepth ∧ Config.bufDepth ≤ 4096 ∧
    ∀ (s : State) (rest : List Event),
      step (facing s (.read 0x0000) rest) = .next { s with agenda := rest, rdata := 0x4C533437 } ∧
        (∃ t, step (facing s (.read 0x0001) rest) = .next t ∧ t = { s with agenda := rest, rdata := t.rdata } ∧
          t.rdata.toNat = Config.bufDepth) ∧
        ∃ t, step (facing s (.read 0x0004) rest) = .next t ∧ t = { s with agenda := rest, rdata := t.rdata } ∧
          t.rdata.getLsbD 0 = s.status.busy ∧ t.rdata.getLsbD 1 = s.status.done ∧ t.rdata.getLsbD 2 = s.status.err ∧
          t.rdata.getLsbD 3 = s.status.fatal ∧ t.rdata.getLsbD 4 = s.status.keyvalid ∧
          t.rdata.getLsbD 5 = s.status.gridvalid ∧ t.rdata.getLsbD 6 = s.status.buserr ∧
          ∀ i, 7 ≤ i → t.rdata.getLsbD i = false

/-- What the result registers read while the engine is idle: numbers zero-extended, positions as `row << 8 | col`, `MARKER` 0 while
`GRIDVALID = 0`, the finding sets as a low and a high
word, buffer elements as codes (10_state R29, R31 to R37, R40, R42 to R44). -/
def Obligations.ResultRegistersRead : Prop :=
  ∀ s : State,
    (readReg s .ecode).toNat = s.ecode.toNat ∧ readReg s .cmd = s.cmd ∧ (readReg s .len).toNat = s.len.toNat ∧
      (readReg s .nlen).toNat = s.nlen.toNat ∧ (readReg s .olen).toNat = s.olen.toNat ∧ (readReg s .idx).toNat = s.idx.toNat ∧
      (readReg s .rsym).toNat = s.rsym.toNat ∧ (readReg s .rpos).toNat = s.rpos.row.toNat * 256 + s.rpos.col.toNat ∧
      (readReg s .marker).toNat = (if s.status.gridvalid = true then s.marker.row.toNat * 256 + s.marker.col.toNat else 0) ∧
      (readReg s .findIllLo).toNat + 2 ^ 32 * (readReg s .findIllHi).toNat = s.find.ill.toNat ∧
      (readReg s .findMissLo).toNat + 2 ^ 32 * (readReg s .findMissHi).toNat = s.find.miss.toNat ∧
      (readReg s .findDupLo).toNat + 2 ^ 32 * (readReg s .findDupHi).toNat = s.find.dup.toNat ∧
      ∀ k, (readReg s (.ibuf k)).toNat = (ibufAt s k).toNat ∧ (readReg s (.obuf k)).toNat = (obufAt s k).toNat

/-- The grid windows show the cells below `N` of a valid grid and 0 otherwise, at the addresses `0x0040 + k` and `0x0080 + k`
(10_state R38, R39, 20_memory R64, R71). -/
def Obligations.WindowsShowValidGridsOnly : Prop :=
  ∀ (s : State) (k : Nat) (rest : List Event), k < 64 → s.status.busy = false →
    ∃ tk tg, step (facing s (.read (BitVec.ofNat 14 (0x0040 + k))) rest) = .next tk ∧
      step (facing s (.read (BitVec.ofNat 14 (0x0080 + k))) rest) = .next tg ∧
      (∀ sz, s.config.size = some sz → k < sz.count →
        (s.status.keyvalid = true → tk.rdata.toNat = (cell s.key k).toNat) ∧
          (s.status.gridvalid = true → tg.rdata.toNat = (cell s.grid k).toNat)) ∧
      (s.status.keyvalid = false → tk.rdata = 0) ∧ (s.status.gridvalid = false → tg.rdata = 0) ∧
      ∀ sz, s.config.size = some sz → sz.count ≤ k → tk.rdata = 0 ∧ tg.rdata = 0

/-- A legal `CONFIG` write while idle stores the three fields, clears `GRIDVALID`, and clears `KEYVALID` exactly when it changes
`SIZE` (10_state R26); the register then reads back the word. -/
def Obligations.ConfigWriteDiscardsTheWorkingState : Prop :=
  ∀ (s : State) (sz : GridSize) (mmode nmode : Bool) (w : Word) (rest : List Event), s.status.busy = false →
    w.toNat = sz.side + (if mmode then 256 else 0) + (if nmode then 512 else 0) →
    ∃ t, step (facing s (.write 0x0002 w) rest) = .next t ∧
      t = { s with
            agenda := rest
            config := ⟨some sz, if mmode then .coRotating else .stationary, if nmode then .modeB else .modeA⟩
            status := { s.status with
              gridvalid := false
              keyvalid := s.status.keyvalid && decide (s.config.size = some sz) } } ∧
      readReg t .config = w

/-- Legal writes of `LEN`, `NLEN` and `IEN` while idle store the value and change nothing else, and the register then reads back the
word; a write to `STATUS` clears `DONE` if bit 1 is 1, clears `BUSERR` if bit 6 is 1, and does nothing else (10_state R28, R30, R32,
R33). -/
def Obligations.PlainRegisterWrites : Prop :=
  ∀ (s : State) (w : Word) (rest : List Event), s.status.busy = false →
    (w.toNat ≤ Config.bufDepth →
      (∃ t, step (facing s (.write 0x0008 w) rest) = .next t ∧ t = { s with agenda := rest, len := t.len } ∧
        t.len.toNat = w.toNat ∧ readReg t .len = w) ∧
        ∃ t, step (facing s (.write 0x0009 w) rest) = .next t ∧ t = { s with agenda := rest, nlen := t.nlen } ∧
          t.nlen.toNat = w.toNat ∧ readReg t .nlen = w) ∧
      (w.toNat ≤ 7 →
        ∃ t, step (facing s (.write 0x0006 w) rest) = .next t ∧
          t = { s with agenda := rest, ien := ⟨w.getLsbD 0, w.getLsbD 1, w.getLsbD 2⟩ } ∧ readReg t .ien = w) ∧
      step (facing s (.write 0x0004 w) rest)
        = .next { s with
            agenda := rest
            status := { s.status with
              done := if w.getLsbD 1 = true then false else s.status.done
              buserr := if w.getLsbD 6 = true then false else s.status.buserr } }

/-- A legal write of a code to `IBUF[k]` while idle stores it, leaves every other element and everything else as it was, and the
element then reads back the word (10_state R43). -/
def Obligations.InputBufferReadAfterWrite : Prop :=
  ∀ (s : State) (k : Nat) (w : Word) (rest : List Event), s.status.busy = false → s.ibuf.wf → k < Config.bufDepth →
    w.toNat ≤ 63 →
    ∃ t, step (facing s (.write (BitVec.ofNat 14 (0x1000 + k)) w) rest) = .next t ∧
      t = { s with agenda := rest, ibuf := t.ibuf } ∧ (ibufAt t k).toNat = w.toNat ∧ (∀ j, j ≠ k → ibufAt t j = ibufAt s j) ∧
      t.ibuf.wf ∧
      ∃ u, step (facing t (.read (BitVec.ofNat 14 (0x1000 + k))) rest) = .next u ∧ u.rdata = w

/-- `irq` as a function of the bits of `IEN` and `STATUS` that the host reads (10_state R47). -/
def Obligations.InterruptLevel : Prop :=
  ∀ s : State,
    irq s = true ↔
      ((readReg s .ien).getLsbD 0 = true ∧ (readReg s .status).getLsbD 1 = true)
        ∨ ((readReg s .ien).getLsbD 1 = true ∧ (readReg s .status).getLsbD 1 = true ∧ (readReg s .status).getLsbD 2 = true)
        ∨ ((readReg s .ien).getLsbD 2 = true ∧ (readReg s .status).getLsbD 3 = true)

/-- The `LOAD` line of a host program puts the codes into `IBUF` from element 0 on and their number into `LEN`, and changes nothing
else (30_encoding R100, 20_memory R77). -/
def Obligations.LoadLineFillsTheInputBuffer : Prop :=
  ∀ (s : State) (codes : List Sym), s.status.busy = false → s.ibuf.wf → s.agenda = [] → codes.length ≤ Config.bufDepth →
    ∃ t, core.run (codes.length + 1) (withProgram [.load codes] s) = .next t ∧
      t = { s with ibuf := t.ibuf, len := t.len } ∧ t.len.toNat = codes.length ∧
      (∀ (k : Nat) (h : k < codes.length), ibufAt t k = codes[k]) ∧ ∀ k, codes.length ≤ k → ibufAt t k = ibufAt s k

/-! ### Position arithmetic and the grid operators -/

/-- Position add and subtract are componentwise modulo `size`, and subtracting what was added gives the position back
(40_grid_ops R121, R122). -/
def Obligations.PositionAddAndSubtract : Prop :=
  ∀ (sz : GridSize) (a b : Pos),
    (padd sz a b).row.toNat = (a.row.toNat + b.row.toNat) % sz.side ∧
      (padd sz a b).col.toNat = (a.col.toNat + b.col.toNat) % sz.side ∧
      ((psub sz a b).row.toNat : Int) = ((a.row.toNat : Int) - b.row.toNat) % (sz.side : Int) ∧
      ((psub sz a b).col.toNat : Int) = ((a.col.toNat : Int) - b.col.toNat) % (sz.side : Int) ∧
      (posValid sz a → psub sz (padd sz a b) b = a)

/-- Rotations keep the permutation: the cells are the same, each in a new place, and a valid grid stays valid
(40_grid_ops R129 law 1). -/
def Obligations.RotationsPermuteTheCells : Prop :=
  ∀ (sz : GridSize) (G : Grid) (line : Nat) (n : Int), line < sz.side →
    (rotr sz G line n).toList.Perm G.toList ∧ (rotc sz G line n).toList.Perm G.toList ∧
      (gridValid sz G → gridValid sz (rotr sz G line n) ∧ gridValid sz (rotc sz G line n))

/-- Rotations by `a` and then by `b` are one by `a + b`; a rotation by a multiple of `size` changes nothing; a rotation by `-n` undoes
one by `n`; rotations of two different rows commute, and of two different columns (40_grid_ops R129 laws 2 to 4). -/
def Obligations.RotationsAddUpAndUndo : Prop :=
  ∀ (sz : GridSize) (G : Grid) (line : Nat) (a b n : Int), line < sz.side →
    rotr sz (rotr sz G line a) line b = rotr sz G line (a + b) ∧ rotc sz (rotc sz G line a) line b = rotc sz G line (a + b) ∧
      rotr sz G line ((sz.side : Int) * a) = G ∧ rotc sz G line ((sz.side : Int) * a) = G ∧
      rotr sz (rotr sz G line n) line (-n) = G ∧ rotc sz (rotc sz G line n) line (-n) = G ∧
      ∀ other, other < sz.side → other ≠ line →
        rotr sz (rotr sz G line a) other b = rotr sz (rotr sz G other b) line a ∧
          rotc sz (rotc sz G line a) other b = rotc sz (rotc sz G other b) line a

/-- The marker adjustments move a position exactly as the tile under it moves (40_grid_ops R129 law 5). -/
def Obligations.MarkerStaysAttachedToItsTile : Prop :=
  ∀ (sz : GridSize) (G : Grid) (line : Nat) (n : Int) (v : Sym), line < sz.side → gridValid sz G →
    posof sz (rotr sz G line n) v = (posof sz G v).map (fun p => mkr sz p line n) ∧
      posof sz (rotc sz G line n) v = (posof sz G v).map (fun p => mkc sz p line n)

/-! ### The operator commands -/

/-- SYMAT on operands in range: `RSYM` is the cell at the position, nothing else changes (40_grid_ops R131). -/
def Obligations.SymatReadsTheGrid : Prop :=
  ∀ (s : State) (sz : GridSize) (row col : BitVec 3), s.config.size = some sz → row.toNat < sz.side → col.toNat < sz.side →
    s.status.gridvalid = true →
    exec (.symat row col) s = .next (done { s with rsym := cell s.grid (row.toNat * sz.side + col.toNat) })

/-- POSOF of a symbol the grid holds: `RPOS` is the position of the first cell that holds it, nothing else changes. POSOF of a symbol
that no cell holds is fatal: `FATAL` and `ERR` are set, `ECODE` is 5, the finding sets are 0, and nothing else changes, `GRIDVALID`
included (40_grid_ops R132, R124, 60_exceptions R234). -/
def Obligations.PosofFindsTheSymbolOrIsFatal : Prop :=
  ∀ (s : State) (sz : GridSize) (v : Sym), s.config.size = some sz → s.status.gridvalid = true →
    (∀ k, k < sz.count → cell s.grid k = v → (∀ j, j < k → cell s.grid j ≠ v) →
      exec (.posof v) s
        = .next (done { s with rpos := ⟨BitVec.ofNat 3 (k / sz.side), BitVec.ofNat 3 (k % sz.side)⟩ })) ∧
      ((∀ k, k < sz.count → cell s.grid k ≠ v) →
        exec (.posof v) s
          = .next { s with
              status := { s.status with busy := false, done := true, err := true, fatal := true }
              ecode := 0x005
              find := ⟨0, 0, 0⟩ })

/-- ROTR and ROTR.M of a row in range, by every amount: the row moves toward higher columns by `n mod size`, with `M` the marker in
that row moves along, nothing else changes (40_grid_ops R133). -/
def Obligations.RotrRotatesTheRow : Prop :=
  ∀ (s : State) (sz : GridSize) (m : Bool) (line : BitVec 3) (n : Int), s.config.size = some sz → line.toNat < sz.side →
    s.status.gridvalid = true →
    ∃ G, exec (.rotr m line n) s
        = .next (done { s with
            grid := G
            marker :=
              if m = true ∧ s.marker.row = line then
                ⟨s.marker.row, BitVec.ofNat 3 (((s.marker.col.toNat : Int) + n) % (sz.side : Int)).toNat⟩
              else s.marker }) ∧
      (∀ c, c < sz.side →
        cell G (line.toNat * sz.side + (((c : Int) + n) % (sz.side : Int)).toNat) = cell s.grid (line.toNat * sz.side + c)) ∧
      ∀ k, k < 64 → ¬ (k < sz.count ∧ k / sz.side = line.toNat) → cell G k = cell s.grid k

/-- ROTC and ROTC.M of a column in range, by every amount: the column moves toward higher rows by `n mod size`, with `M` the marker
in that column moves along, nothing else changes (40_grid_ops R134). -/
def Obligations.RotcRotatesTheColumn : Prop :=
  ∀ (s : State) (sz : GridSize) (m : Bool) (line : BitVec 3) (n : Int), s.config.size = some sz → line.toNat < sz.side →
    s.status.gridvalid = true →
    ∃ G, exec (.rotc m line n) s
        = .next (done { s with
            grid := G
            marker :=
              if m = true ∧ s.marker.col = line then
                ⟨BitVec.ofNat 3 (((s.marker.row.toNat : Int) + n) % (sz.side : Int)).toNat, s.marker.col⟩
              else s.marker }) ∧
      (∀ r, r < sz.side →
        cell G ((((r : Int) + n) % (sz.side : Int)).toNat * sz.side + line.toNat) = cell s.grid (r * sz.side + line.toNat)) ∧
      ∀ k, k < 64 → ¬ (k < sz.count ∧ k % sz.side = line.toNat) → cell G k = cell s.grid k

/-- MKADV of a symbol of the alphabet: the marker advances by the symbol's canonical position, componentwise modulo `size`, nothing
else changes (40_grid_ops R135, R120). -/
def Obligations.MkadvAdvancesTheMarker : Prop :=
  ∀ (s : State) (sz : GridSize) (v : Sym), s.config.size = some sz → v.toNat < sz.count → s.status.gridvalid = true →
    exec (.mkadv v) s
      = .next (done { s with
          marker :=
            ⟨BitVec.ofNat 3 ((s.marker.row.toNat + v.toNat / sz.side) % sz.side),
              BitVec.ofNat 3 ((s.marker.col.toNat + v.toNat % sz.side) % sz.side)⟩ })

/-! ### The key commands -/

/-- INIT with a key: the working grid is a copy of `KEY`, the marker is `(0,0)`, `GRIDVALID` is set, nothing else changes
(41_key_derivation R152). -/
def Obligations.InitStartsACall : Prop :=
  ∀ (s : State) (sz : GridSize), s.config.size = some sz → s.status.keyvalid = true →
    ∃ G, copiedFrom sz G s.key s.grid ∧
      exec .init s
        = .next (done { s with grid := G, marker := ⟨0, 0⟩, status := { s.status with gridvalid := true } })

/-- KEYLIT of a permutation of the alphabet: `KEY` and `GRID` take the `N` codes, the marker is `(0,0)`, both valid flags are set,
`IDX` is `LEN`, nothing else changes (41_key_derivation R153). -/
def Obligations.KeylitLoadsAPermutation : Prop :=
  ∀ (s : State) (sz : GridSize), s.config.size = some sz → s.len.toNat = sz.count → clean sz s 0 s.len.toNat →
    (∀ j k, j < sz.count → k < sz.count → ibufAt s j = ibufAt s k → j = k) →
    ∃ K G, (∀ k, k < sz.count → cell K k = ibufAt s k) ∧ (∀ k, sz.count ≤ k → k < 64 → cell K k = cell s.key k) ∧
      copiedFrom sz G K s.grid ∧
      exec .keylit s
        = .next (done { s with
            key := K, grid := G, marker := ⟨0, 0⟩, idx := s.len
            status := { s.status with keyvalid := true, gridvalid := true } })

/-- KEYDRV of a keyword over the alphabet, of any length: `KEY` and `GRID` take the permutation fold of the keyword, which starts
from the identity and for the `j`-th symbol rotates row `j mod size` by the symbol's canonical column and then column `j mod size`
by its canonical row (41_key_derivation R154, R150). -/
def Obligations.KeydrvFoldsTheKeyword : Prop :=
  ∀ (s : State) (sz : GridSize), s.config.size = some sz → clean sz s 0 s.len.toNat →
    ∃ (fold : Nat → Grid) (K G : Grid),
      (∀ k, k < sz.count → (cell (fold 0) k).toNat = k) ∧
      (∀ j, j < s.len.toNat →
        fold (j + 1) = rotc sz (rotr sz (fold j) (j % sz.side) ((ibufAt s j).toNat % sz.side : Nat)) (j % sz.side)
          ((ibufAt s j).toNat / sz.side : Nat)) ∧
      copiedFrom sz K (fold s.len.toNat) s.key ∧ copiedFrom sz G (fold s.len.toNat) s.grid ∧
      exec .keydrv s
        = .next (done { s with
            key := K, grid := G, marker := ⟨0, 0⟩, idx := s.len
            status := { s.status with keyvalid := true, gridvalid := true } })

/-- CHKKEY of a permutation of the alphabet and CHKMSG, of each of the three kinds, of a clean input succeed: `IDX` is `LEN`,
nothing else changes (41_key_derivation R155, 43_message_commands R202). -/
def Obligations.ChecksSucceedOnGoodInput : Prop :=
  ∀ (s : State) (sz : GridSize), s.config.size = some sz → clean sz s 0 s.len.toNat →
    (s.len.toNat = sz.count → (∀ j k, j < sz.count → k < sz.count → ibufAt s j = ibufAt s k → j = k) →
      exec .chkkey s = .next (done { s with idx := s.len })) ∧
      ∀ kind : BitVec 2, kind ≠ 3 → exec (.chkmsg kind) s = .next (done { s with idx := s.len })

/-- What key validation reports: the illegal, the missing and the duplicated codes, all three complete, and all three empty exactly
when the input is a permutation of the alphabet (41_key_derivation R151). -/
def Obligations.KeyValidationIsComplete : Prop :=
  ∀ (sz : GridSize) (buf : List Sym),
    (∀ v, v < 64 →
      ((keycheck sz buf).ill.getLsbD v = true ↔ sz.count ≤ v ∧ ∃ x ∈ buf, x.toNat = v) ∧
        ((keycheck sz buf).miss.getLsbD v = true ↔ v < sz.count ∧ ∀ x ∈ buf, x.toNat ≠ v) ∧
        ((keycheck sz buf).dup.getLsbD v = true ↔ v < sz.count ∧ 2 ≤ (buf.map BitVec.toNat).count v)) ∧
      (keycheck sz buf = ⟨0, 0, 0⟩ ↔ (buf.map BitVec.toNat).Perm (List.range sz.count))

/-- Key derivation is a pure function of the keyword and the size, with a valid grid for every keyword over the alphabet
(41_key_derivation R156): two states that agree on them agree on the `N` cells of `KEY` after KEYDRV, whatever else they hold. -/
def Obligations.DerivationIsDeterministic : Prop :=
  ∀ (s1 s2 : State) (sz : GridSize), s1.config.size = some sz → s2.config.size = some sz → s1.len = s2.len →
    (∀ k, k < s1.len.toNat → ibufAt s1 k = ibufAt s2 k) → clean sz s1 0 s1.len.toNat →
    ∃ t1 t2, exec .keydrv s1 = .next t1 ∧ exec .keydrv s2 = .next t2 ∧ gridValid sz t1.key ∧
      ∀ k, k < sz.count → cell t1.key k = cell t2.key k

/-! ### The cipher step -/

/-- One encryption and one decryption step on a valid working state, in both marker modes, as 42_cipher_step R171 to R173 write
them: the row of the plaintext rotates by 1, then the column where the ciphertext symbol then is; in the co-rotating mode the marker
follows its tile each time; then it advances by the ciphertext symbol's canonical position. -/
def Obligations.CipherStepFollowsTheRules : Prop :=
  ∀ (sz : GridSize) (mode : MarkerMode) (W : Work) (pp : Pos), gridValid sz W.grid → posValid sz W.marker → posValid sz pp →
    let p := symat sz W.grid pp
    let c := symat sz W.grid (padd sz pp (ix sz (symat sz W.grid W.marker)))
    ∃ (W' : Work) (cp' : Pos),
      encstep sz mode W p = some (W', c) ∧ decstep sz mode W c = some (W', p) ∧ posValid sz cp' ∧
        symat sz (rotr sz W.grid pp.row.toNat 1) cp' = c ∧
        W'.grid = rotc sz (rotr sz W.grid pp.row.toNat 1) cp'.col.toNat 1 ∧
        W'.marker
          = padd sz
              (match mode with
                | .stationary => W.marker
                | .coRotating => mkc sz (mkr sz W.marker pp.row.toNat 1) cp'.col.toNat 1)
              (ix sz c)

/-- Encryption and decryption are inverse steps on the same state and leave the same state (42_cipher_step R174). -/
def Obligations.StepSymmetry : Prop :=
  ∀ (sz : GridSize) (mode : MarkerMode) (W W' : Work) (p c : Sym), gridValid sz W.grid → posValid sz W.marker →
    (p.toNat < sz.count → encstep sz mode W p = some (W', c) → decstep sz mode W c = some (W', p)) ∧
      (c.toNat < sz.count → decstep sz mode W c = some (W', p) → encstep sz mode W p = some (W', c))

/-- ENC1 and DEC1 of an alphabet symbol on a valid working state take one step: `GRID`, `MARKER` and `RSYM` are its results, nothing
else changes, and the step keeps the working state valid (42_cipher_step R177, R178). -/
def Obligations.SingleStepsComplete : Prop :=
  ∀ (s : State) (sz : GridSize) (v : Sym), s.config.size = some sz → s.status.gridvalid = true → gridValid sz s.grid →
    posValid sz s.marker → v.toNat < sz.count →
    (∃ W c, encstep sz s.config.mmode ⟨s.grid, s.marker⟩ v = some (W, c) ∧ gridValid sz W.grid ∧ posValid sz W.marker ∧
      c.toNat < sz.count ∧ exec (.enc1 v) s = .next (done { s with grid := W.grid, marker := W.marker, rsym := c })) ∧
      ∃ W p, decstep sz s.config.mmode ⟨s.grid, s.marker⟩ v = some (W, p) ∧ gridValid sz W.grid ∧ posValid sz W.marker ∧
        p.toNat < sz.count ∧ exec (.dec1 v) s = .next (done { s with grid := W.grid, marker := W.marker, rsym := p })

/-! ### The message commands -/

/-- ENC and DEC of a clean input with a valid key: from a fresh copy of `KEY` with the marker at `(0,0)`, one encryption or one
decryption step per symbol in order, the results in `OBUF[0 .. LEN-1]`; `OLEN` and `IDX` are `LEN`; nothing else changes
(43_message_commands R192, R193, R191). -/
def Obligations.EncAndDecProcessTheMessage : Prop :=
  ∀ (s : State) (sz : GridSize), s.config.size = some sz → s.status.keyvalid = true → gridValid sz s.key → s.obuf.wf →
    clean sz s 0 s.len.toNat →
    (∃ (W : Nat → Work) (c : Nat → Sym) (t : State), exec .enc s = .next t ∧ freshFrom sz s (W 0) ∧
      (∀ k, k < s.len.toNat → encstep sz s.config.mmode (W k) (ibufAt s k) = some (W (k + 1), c k)) ∧
      outputs s t s.len.toNat c ∧ messageDone s t (W s.len.toNat) s.len) ∧
      ∃ (W : Nat → Work) (p : Nat → Sym) (t : State), exec .dec s = .next t ∧ freshFrom sz s (W 0) ∧
        (∀ k, k < s.len.toNat → decstep sz s.config.mmode (W k) (ibufAt s k) = some (W (k + 1), p k)) ∧
        outputs s t s.len.toNat p ∧ messageDone s t (W s.len.toNat) s.len

/-- ENCN of a clean nonce and plaintext with a valid key: an encryption step per symbol; the wire message is the results, but in
Mode A its first `NLEN` symbols are the clear nonce (43_message_commands R200, R196, R197). -/
def Obligations.EncnEncryptsWithNonce : Prop :=
  ∀ (s : State) (sz : GridSize), s.config.size = some sz → s.nlen.toNat ≤ s.len.toNat → s.status.keyvalid = true →
    gridValid sz s.key → s.obuf.wf → clean sz s 0 s.len.toNat →
    ∃ (W : Nat → Work) (c : Nat → Sym) (t : State), exec .encn s = .next t ∧ freshFrom sz s (W 0) ∧
      (∀ k, k < s.len.toNat → encstep sz s.config.mmode (W k) (ibufAt s k) = some (W (k + 1), c k)) ∧
      outputs s t s.len.toNat (fun k => if s.config.nmode = .modeA ∧ k < s.nlen.toNat then ibufAt s k else c k) ∧
      messageDone s t (W s.len.toNat) s.len

/-- DECN of a clean wire message with a valid key: in Mode A the first `NLEN` steps encrypt the clear nonce and the rest decrypt, in
Mode B every step decrypts; the results from `NLEN` on are `OBUF[0 .. LEN-NLEN-1]` (43_message_commands R201, R198, R199). -/
def Obligations.DecnDecryptsWithNonce : Prop :=
  ∀ (s : State) (sz : GridSize), s.config.size = some sz → s.nlen.toNat ≤ s.len.toNat → s.status.keyvalid = true →
    gridValid sz s.key → s.obuf.wf → clean sz s 0 s.len.toNat →
    ∃ (W : Nat → Work) (p : Nat → Sym) (t : State), exec .decn s = .next t ∧ freshFrom sz s (W 0) ∧
      (∀ k, k < s.len.toNat →
        (if s.config.nmode = .modeA ∧ k < s.nlen.toNat then encstep sz s.config.mmode (W k) (ibufAt s k)
          else decstep sz s.config.mmode (W k) (ibufAt s k)) = some (W (k + 1), p k)) ∧
      outputs s t (s.len.toNat - s.nlen.toNat) (fun k => p (k + s.nlen.toNat)) ∧
      ∃ olen : Count, olen.toNat = s.len.toNat - s.nlen.toNat ∧ messageDone s t (W s.len.toNat) olen

/-- With an empty nonce ENCN is ENC and DECN is DEC, in both nonce modes, on every input and in every state
(43_message_commands R195). -/
def Obligations.EmptyNonceIsPlainEncryption : Prop :=
  ∀ s : State, s.nlen = 0 → exec .encn s = exec .enc s ∧ exec .decn s = exec .dec s

/-- DEC of the output of ENC, under the same configuration and key, gives the message back and ends in the same working state
(43_message_commands R203 a, but for its equality of the working states after each `k` steps). -/
def Obligations.DecryptionReturnsTheMessage : Prop :=
  ∀ (s s' t : State) (sz : GridSize), s.config.size = some sz → s.status.keyvalid = true → gridValid sz s.key → s.obuf.wf →
    clean sz s 0 s.len.toNat → exec .enc s = .next t →
    s'.config = s.config → s'.status.keyvalid = true → s'.obuf.wf → s'.len = t.olen →
    (∀ k, k < sz.count → cell s'.key k = cell s.key k) → (∀ k, k < t.olen.toNat → ibufAt s' k = obufAt t k) →
    ∃ t', exec .dec s' = .next t' ∧ t'.status.err = false ∧ t'.olen = s.len ∧
      (∀ k, k < s.len.toNat → obufAt t' k = ibufAt s k) ∧ t'.marker = t.marker ∧
      ∀ k, k < sz.count → cell t'.grid k = cell t.grid k

/-- DECN of the output of ENCN, in either nonce mode, under the same configuration, key and `NLEN`, gives the plaintext back and ends
in the same working state (43_message_commands R203 b). -/
def Obligations.DecryptionWithNonceReturnsThePlaintext : Prop :=
  ∀ (s s' t : State) (sz : GridSize), s.config.size = some sz → s.nlen.toNat ≤ s.len.toNat → s.status.keyvalid = true →
    gridValid sz s.key → s.obuf.wf → clean sz s 0 s.len.toNat → exec .encn s = .next t →
    s'.config = s.config → s'.status.keyvalid = true → s'.obuf.wf → s'.len = t.olen → s'.nlen = s.nlen →
    (∀ k, k < sz.count → cell s'.key k = cell s.key k) → (∀ k, k < t.olen.toNat → ibufAt s' k = obufAt t k) →
    ∃ t', exec .decn s' = .next t' ∧ t'.status.err = false ∧ t'.olen.toNat = s.len.toNat - s.nlen.toNat ∧
      (∀ k, k < s.len.toNat - s.nlen.toNat → obufAt t' k = ibufAt s (k + s.nlen.toNat)) ∧ t'.marker = t.marker ∧
      ∀ k, k < sz.count → cell t'.grid k = cell t.grid k

/-- A message command does not see the call before: its results depend on `KEY`, `CONFIG`, `LEN`, `NLEN` and the input alone
(43_message_commands R204). -/
def Obligations.CallsDoNotSeeEarlierCalls : Prop :=
  ∀ (i : Instr) (s1 s2 t1 t2 : State) (sz : GridSize), isMessage i → s1.config = s2.config → s1.config.size = some sz →
    s1.status.keyvalid = true → s2.status.keyvalid = true → gridValid sz s1.key →
    (∀ k, k < sz.count → cell s1.key k = cell s2.key k) → s1.len = s2.len → s1.nlen = s2.nlen →
    (∀ k, k < s1.len.toNat → ibufAt s1 k = ibufAt s2 k) → s1.obuf.wf → s2.obuf.wf →
    exec i s1 = .next t1 → exec i s2 = .next t2 →
    t1.status.err = t2.status.err ∧ t1.ecode = t2.ecode ∧ t1.find = t2.find ∧
      (t1.status.err = false →
        t1.olen = t2.olen ∧ t1.idx = t2.idx ∧ t1.marker = t2.marker ∧
          (∀ k, k < sz.count → cell t1.grid k = cell t2.grid k) ∧ ∀ k, k < t1.olen.toNat → obufAt t1 k = obufAt t2 k)

/-! ### Failed commands -/

/-- Every command on an unconfigured block fails `NotConfigured` and changes nothing else (60_exceptions R239). -/
def Obligations.UnconfiguredBlockFailsEveryCommand : Prop :=
  ∀ (i : Instr) (s : State), s.config.size = none → exec i s = .next (failed 0x13 none3 s)

/-- Without a key INIT, ENC, DEC, ENCN and DECN fail `NoKey`, and without a working state SYMAT, POSOF, ROTR, ROTC, MKADV, ENC1 and
DEC1 fail `NoState`, once the operand and length checks before it pass, and change nothing else; ENC1 and DEC1 do so before they
look at their symbol (60_exceptions R240, R241, R224). -/
def Obligations.CommandsWithoutAGridFail : Prop :=
  ∀ (s : State) (sz : GridSize), s.config.size = some sz →
    (s.status.keyvalid = false → ∀ i : Instr,
      (i = .init ∨ i = .enc ∨ i = .dec ∨ ((i = .encn ∨ i = .decn) ∧ s.nlen.toNat ≤ s.len.toNat)) →
      exec i s = .next (failed 0x14 none3 s)) ∧
    (s.status.gridvalid = false →
      (∀ row col : BitVec 3, row.toNat < sz.side → col.toNat < sz.side →
        exec (.symat row col) s = .next (failed 0x15 none3 s)) ∧
        (∀ (m : Bool) (line : BitVec 3) (n : Int), line.toNat < sz.side →
          exec (.rotr m line n) s = .next (failed 0x15 none3 s) ∧ exec (.rotc m line n) s = .next (failed 0x15 none3 s)) ∧
        (∀ v : Sym, v.toNat < sz.count → exec (.mkadv v) s = .next (failed 0x15 none3 s)) ∧
        ∀ v : Sym, exec (.posof v) s = .next (failed 0x15 none3 s) ∧ exec (.enc1 v) s = .next (failed 0x15 none3 s) ∧
          exec (.dec1 v) s = .next (failed 0x15 none3 s))

/-- An operand outside its range fails `BadOperand`, whether there is a working state or not, and ENCN and DECN with `NLEN > LEN`
fail `BadLength`, with a key or without; nothing else changes (60_exceptions R237, R238, R224). -/
def Obligations.OperandsAndLengthsOutOfRangeFail : Prop :=
  ∀ (s : State) (sz : GridSize), s.config.size = some sz →
    (∀ row col : BitVec 3, sz.side ≤ row.toNat ∨ sz.side ≤ col.toNat →
      exec (.symat row col) s = .next (failed 0x11 none3 s)) ∧
      (∀ (m : Bool) (line : BitVec 3) (n : Int), sz.side ≤ line.toNat →
        exec (.rotr m line n) s = .next (failed 0x11 none3 s) ∧ exec (.rotc m line n) s = .next (failed 0x11 none3 s)) ∧
      (∀ v : Sym, sz.count ≤ v.toNat → exec (.mkadv v) s = .next (failed 0x11 none3 s)) ∧
      exec (.chkmsg 3) s = .next (failed 0x11 none3 s) ∧
      (s.len.toNat < s.nlen.toNat →
        exec .encn s = .next (failed 0x12 none3 s) ∧ exec .decn s = .next (failed 0x12 none3 s))

/-- KEYLIT and CHKKEY of an input that is not a permutation of the alphabet fail `InvalidKey` with the three finding sets of key
validation and `IDX <- 0`, and change nothing else (60_exceptions R226, 41_key_derivation R153, R155). -/
def Obligations.BadKeysAreReported : Prop :=
  ∀ (s : State) (sz : GridSize), s.config.size = some sz → ¬ ((input s).map BitVec.toNat).Perm (List.range sz.count) →
    exec .keylit s = .next (failed 0x01 (keycheck sz (input s)) { s with idx := 0 }) ∧
      exec .chkkey s = .next (failed 0x01 (keycheck sz (input s)) { s with idx := 0 })

/-- An input with symbols outside the alphabet fails with the error of what it is, the complete set of those symbols in `FIND_ILL`,
and changes nothing else but `IDX <- 0` and, for ENC and DEC, `OLEN <- 0`: KEYDRV `InvalidKeyword`, CHKMSG by its kind, ENC
`InvalidPlaintext`, DEC `InvalidCiphertext`; ENC1 and DEC1 report their one operand so, and change nothing else
(60_exceptions R235, R227 to R229, 43_message_commands R202, R192, R193, 42_cipher_step R177, R178). -/
def Obligations.IllegalSymbolsAreReported : Prop :=
  ∀ (s : State) (sz : GridSize), s.config.size = some sz →
    (¬ clean sz s 0 s.len.toNat →
      ∃ bad, isBadset sz s 0 s.len.toNat bad ∧
        exec .keydrv s = .next (failed 0x06 ⟨bad, 0, 0⟩ { s with idx := 0 }) ∧
        exec (.chkmsg 0) s = .next (failed 0x02 ⟨bad, 0, 0⟩ { s with idx := 0 }) ∧
        exec (.chkmsg 1) s = .next (failed 0x03 ⟨bad, 0, 0⟩ { s with idx := 0 }) ∧
        exec (.chkmsg 2) s = .next (failed 0x04 ⟨bad, 0, 0⟩ { s with idx := 0 }) ∧
        (s.status.keyvalid = true →
          exec .enc s = .next (failed 0x03 ⟨bad, 0, 0⟩ { s with olen := 0, idx := 0 }) ∧
            exec .dec s = .next (failed 0x04 ⟨bad, 0, 0⟩ { s with olen := 0, idx := 0 }))) ∧
      ∀ v : Sym, s.status.gridvalid = true → sz.count ≤ v.toNat →
        exec (.enc1 v) s = .next (failed 0x03 ⟨BitVec.ofNat 64 (2 ^ v.toNat), 0, 0⟩ s) ∧
          exec (.dec1 v) s = .next (failed 0x04 ⟨BitVec.ofNat 64 (2 ^ v.toNat), 0, 0⟩ s)

/-- ENCN and DECN blame the nonce stretch before the rest, and report the symbols of the blamed stretch alone: `InvalidNonce` for
the nonce of ENCN and of DECN in Mode A, then `InvalidPlaintext` or `InvalidCiphertext`; in Mode B DECN takes the whole wire message
as ciphertext (43_message_commands R200, R201, 60_exceptions R227 to R229). -/
def Obligations.NonceStretchIsBlamedFirst : Prop :=
  ∀ (s : State) (sz : GridSize), s.config.size = some sz → s.nlen.toNat ≤ s.len.toNat → s.status.keyvalid = true →
    (¬ clean sz s 0 s.nlen.toNat → ∃ bad, isBadset sz s 0 s.nlen.toNat bad ∧
      exec .encn s = .next (failed 0x02 ⟨bad, 0, 0⟩ { s with olen := 0, idx := 0 }) ∧
      (s.config.nmode = .modeA → exec .decn s = .next (failed 0x02 ⟨bad, 0, 0⟩ { s with olen := 0, idx := 0 }))) ∧
    (clean sz s 0 s.nlen.toNat → ¬ clean sz s s.nlen.toNat s.len.toNat → ∃ bad, isBadset sz s s.nlen.toNat s.len.toNat bad ∧
      exec .encn s = .next (failed 0x03 ⟨bad, 0, 0⟩ { s with olen := 0, idx := 0 }) ∧
      (s.config.nmode = .modeA → exec .decn s = .next (failed 0x04 ⟨bad, 0, 0⟩ { s with olen := 0, idx := 0 }))) ∧
    (s.config.nmode = .modeB → ¬ clean sz s 0 s.len.toNat → ∃ bad, isBadset sz s 0 s.len.toNat bad ∧
      exec .decn s = .next (failed 0x04 ⟨bad, 0, 0⟩ { s with olen := 0, idx := 0 }))

/-! ### Instances -/

/-- A step of one instance neither changes another instance nor depends on one (60_exceptions R249). That a number of no instance
changes nothing is the model's choice (log entry 16). -/
def Obligations.InstancesShareNothing : Prop :=
  ∀ (k : Nat) (ss ss' : List State), stepInstance k ss = .next ss' →
    ss'.length = ss.length ∧ (∀ j, j ≠ k → ss'[j]? = ss[j]?) ∧
      ∀ s, ss[k]? = some s → ∃ t, step s = .next t ∧ ss'[k]? = some t
end

