-- ==== Sys2Proof/Laws/Basic.lean ====
section
/-! SUPPORT. The small lemmas of the definitions under the commands: parameters, cells, sets, buffers, position arithmetic. -/

namespace Sys2Proof

/-! ### `BUF_DEPTH` -/

/-- `64 <= BUF_DEPTH` (00_scope R6). -/
theorem Config.minBufDepth_le : 64 ≤ Config.bufDepth := Nat.le_add_right _ _

/-- `BUF_DEPTH <= 4096` (00_scope R6). -/
theorem Config.bufDepth_le : Config.bufDepth ≤ 4096 := by
  have h := Config.bufDepthAboveMin.isLt
  simp only [Config.bufDepth, Config.minBufDepth]
  omega

/-- The evaluable test is the comparison with `BUF_DEPTH`. -/
@[simp] theorem Config.fits_iff (n : Nat) : Config.fits n = true ↔ n ≤ Config.bufDepth := by
  have h := Config.minBufDepth_le
  simp only [Config.fits, Bool.or_eq_true, decide_eq_true_eq]
  have e : Config.minBufDepth = 64 := rfl
  omega

namespace Machine

/-! ### Sizes -/

theorem side_cases (sz : GridSize) : sz.side = 6 ∨ sz.side = 7 := by cases sz <;> simp [GridSize.side]

theorem side_pos (sz : GridSize) : 0 < sz.side := by cases sz <;> simp [GridSize.side]

theorem side_le (sz : GridSize) : sz.side ≤ 7 := by cases sz <;> simp [GridSize.side]

theorem count_eq (sz : GridSize) : sz.count = sz.side * sz.side := rfl

theorem count_le (sz : GridSize) : sz.count ≤ 49 := by cases sz <;> simp [GridSize.count, GridSize.side]

/-! ### Cells -/

theorem cell_eq_getElem (G : Grid) (k : Nat) (h : k < 64) : cell G k = G[k] := by simp [cell, h]

@[simp] theorem cell_tabulate (f : Nat → Sym) (k : Nat) : cell (tabulate f) k = if k < 64 then f k else 0 := by
  simp only [cell, tabulate]
  split <;> simp

theorem cell_tabulate_lt (f : Nat → Sym) {k : Nat} (h : k < 64) : cell (tabulate f) k = f k := by simp [h]

/-- Two grids with the same 64 cells are the same grid. -/
theorem grid_ext {G H : Grid} (h : ∀ k, k < 64 → cell G k = cell H k) : G = H := by
  apply Vector.ext
  intro k hk
  have := h k hk
  simpa [cell, hk] using this

theorem cell_storeCells (n : Nat) (f : Nat → Sym) (dst : Grid) {k : Nat} (h : k < 64) :
    cell (storeCells n f dst) k = if k < n then f k else cell dst k := by
  simp [storeCells, h]

/-- Storing from a grid's own cells changes validity in no way. -/
theorem gridValid_congr {sz : GridSize} {G H : Grid} (h : ∀ k, k < sz.count → cell G k = cell H k) :
    gridValid sz G ↔ gridValid sz H := by
  constructor
  · rintro ⟨h1, h2⟩
    exact ⟨fun k hk => h k hk ▸ h1 k hk, fun j hj k hk e => h2 j hj k hk (by rw [h j hj, h k hk, e])⟩
  · rintro ⟨h1, h2⟩
    exact ⟨fun k hk => (h k hk).symm ▸ h1 k hk, fun j hj k hk e => h2 j hj k hk (by rw [← h j hj, ← h k hk, e])⟩

theorem cell_storeCells_lt {sz : GridSize} (f : Nat → Sym) (dst : Grid) {k : Nat} (h : k < sz.count) :
    cell (storeCells sz.count f dst) k = f k := by
  have := count_le sz
  rw [cell_storeCells _ _ _ (by omega), if_pos h]

/-! ### Sets of codes -/

theorem symSetOf_fold (p : Nat → Bool) (n v : Nat) (h : v < 64) :
    ((List.range n).foldl (fun acc v => if p v then acc ||| BitVec.ofNat 64 (2 ^ v) else acc) (0 : SymSet)).getLsbD v
      = (decide (v < n) && p v) := by
  induction n with
  | zero => simp
  | succ n ih =>
    rw [List.range_succ, List.foldl_append, List.foldl_cons, List.foldl_nil]
    by_cases hp : p n
    · simp only [hp, if_true, BitVec.getLsbD_or, ih, BitVec.getLsbD_ofNat, Nat.testBit_two_pow, h, decide_true, Bool.true_and]
      by_cases hv : n = v
      · subst hv; simp [hp]
      · have : (v < n + 1) ↔ v < n := by omega
        simp [hv, this]
    · simp only [hp, Bool.false_eq_true, if_false, ih]
      by_cases hv : n = v
      · subst hv; simp [hp]
      · have : (v < n + 1) ↔ v < n := by omega
        simp [this]

/-- Bit `v` of a set of codes (10_state R42). -/
theorem getLsbD_symSetOf (p : Nat → Bool) (v : Nat) (h : v < 64) : (symSetOf p).getLsbD v = p v := by
  rw [symSetOf, symSetOf_fold p 64 v h]
  simp [h]

theorem symSetOf_eq_zero (p : Nat → Bool) : symSetOf p = 0 ↔ ∀ v, v < 64 → p v = false := by
  constructor
  · intro h v hv
    rw [← getLsbD_symSetOf p v hv, h]
    simp
  · intro h
    apply BitVec.eq_of_getLsbD_eq
    intro v hv
    rw [getLsbD_symSetOf p v hv, h v hv]
    simp

/-- An input is clean when every symbol is in the alphabet (43_message_commands R190). -/
theorem badset_eq_zero (sz : GridSize) (inp : List Sym) : badset sz inp = 0 ↔ ∀ x ∈ inp, x.toNat < sz.count := by
  rw [badset, symSetOf_eq_zero]
  constructor
  · intro h x hx
    have := h x.toNat x.isLt
    by_contra hc
    have h1 : (inp.any fun y => y.toNat == x.toNat) = true := List.any_eq_true.2 ⟨x, hx, by simp⟩
    rw [h1] at this
    simp at this
    omega
  · intro h v hv
    by_contra hc
    simp only [Bool.not_eq_false, Bool.and_eq_true, decide_eq_true_eq, List.any_eq_true, beq_iff_eq] at hc
    obtain ⟨h1, x, hx, rfl⟩ := hc
    have := h x hx
    omega

/-! ### Error codes -/

@[simp] theorem errorCode_ne_zero (e : CmdError) : errorCode e ≠ 0#8 := by cases e <;> decide

@[simp] theorem ecodeCode_ecodeOf (c : BitVec 8) (f : Findings) : ecodeCode (ecodeOf c f) = c := by
  apply BitVec.eq_of_getLsbD_eq
  intro i hi
  rw [ecodeCode, ecodeOf, BitVec.getLsbD_extractLsb', BitVec.getLsbD_append]
  simp [hi]

theorem ecodeOf_noFindings_zero : ecodeOf 0 noFindings = 0 := by decide

/-! ### Buffers -/

@[simp] theorem bufFind_nil (k : Nat) : bufFind [] k = none := rfl

/-- Read after write, and every other element as before. -/
theorem bufFind_bufPut (m : Memory) (k : Nat) (v : Sym) (j : Nat) (h : m.wf) :
    bufFind (bufPut m k v) j = if j = k then some v else bufFind m j := by
  induction m with
  | nil => simp only [bufPut, bufFind]; split <;> simp_all [eq_comm]
  | cons c r ih =>
    obtain ⟨a, x⟩ := c
    obtain ⟨h1, h2⟩ := List.pairwise_cons.1 h
    simp only [bufPut]
    split
    · simp only [bufFind]; split <;> simp_all [eq_comm]
    · split
      · subst_vars
        simp only [bufFind]
        by_cases hj : a = j
        · simp [hj]
        · simp [hj, Ne.symm hj]
      · rename_i h3 h4
        simp only [bufFind, ih h2]
        by_cases hj : a = j
        · subst hj; simp [Ne.symm h4]
        · simp [hj]

theorem bufPut_mem {m : Memory} {k : Nat} {v : Sym} {c : Nat × Sym} (h : c ∈ bufPut m k v) : c = (k, v) ∨ c ∈ m := by
  induction m with
  | nil => simpa [bufPut] using h
  | cons d r ih =>
    obtain ⟨a, x⟩ := d
    simp only [bufPut] at h
    split at h
    · simpa using h
    · split at h
      · rcases List.mem_cons.1 h with h | h
        · exact .inl h
        · exact .inr (List.mem_cons_of_mem _ h)
      · rcases List.mem_cons.1 h with h | h
        · exact .inr (h ▸ List.mem_cons_self)
        · rcases ih h with h | h
          · exact .inl h
          · exact .inr (List.mem_cons_of_mem _ h)

/-- A write keeps the canonical form. -/
theorem bufPut_wf (m : Memory) (k : Nat) (v : Sym) (h : m.wf) : (bufPut m k v).wf := by
  induction m with
  | nil => simp [bufPut, Memory.wf]
  | cons c r ih =>
    obtain ⟨a, x⟩ := c
    obtain ⟨h1, h2⟩ := List.pairwise_cons.1 h
    simp only [bufPut]
    split
    · rename_i hk
      refine List.pairwise_cons.2 ⟨?_, h⟩
      intro b hb
      rcases List.mem_cons.1 hb with rfl | hb
      · exact hk
      · exact Nat.lt_trans hk (h1 b hb)
    · split
      · subst_vars
        exact List.pairwise_cons.2 ⟨h1, h2⟩
      · rename_i h3 h4
        refine List.pairwise_cons.2 ⟨?_, ih h2⟩
        intro b hb
        rcases bufPut_mem hb with rfl | hb
        · simp only; omega
        · exact h1 b hb

/-- Writing a run of elements keeps the canonical form. -/
theorem bufPutFrom_wf (m : Memory) (k : Nat) (vs : List Sym) (h : m.wf) : (bufPutFrom m k vs).wf := by
  induction vs generalizing m k with
  | nil => exact h
  | cons v vs ih => exact ih _ _ (bufPut_wf m k v h)

/-- What a run of writes leaves in each element. -/
theorem bufFind_bufPutFrom (m : Memory) (k : Nat) (vs : List Sym) (j : Nat) (h : m.wf) :
    bufFind (bufPutFrom m k vs) j = if k ≤ j ∧ j < k + vs.length then vs[j - k]? else bufFind m j := by
  induction vs generalizing m k with
  | nil => simp only [bufPutFrom, List.length_nil]; rw [if_neg (by omega)]
  | cons v vs ih =>
    rw [bufPutFrom, ih _ _ (bufPut_wf m k v h), bufFind_bufPut m k v j h]
    simp only [List.length_cons]
    by_cases h1 : k + 1 ≤ j ∧ j < k + 1 + vs.length
    · rw [if_pos h1, if_pos (by omega)]
      obtain ⟨d, rfl⟩ : ∃ d, j = k + 1 + d := ⟨j - (k + 1), by omega⟩
      have e1 : k + 1 + d - (k + 1) = d := by omega
      have e2 : k + 1 + d - k = d + 1 := by omega
      rw [e1, e2, List.getElem?_cons_succ]
    · rw [if_neg h1]
      by_cases h2 : j = k
      · subst h2; simp
      · rw [if_neg h2, if_neg (by omega)]

theorem bufPutFrom_mem {m : Memory} {k : Nat} {vs : List Sym} {c : Nat × Sym} (h : c ∈ bufPutFrom m k vs) :
    c ∈ m ∨ (k ≤ c.1 ∧ c.1 < k + vs.length) := by
  induction vs generalizing m k with
  | nil => exact .inl h
  | cons v vs ih =>
    rcases ih h with h | h
    · rcases bufPut_mem h with rfl | h
      · exact .inr (by simp)
      · exact .inl h
    · exact .inr (by simp only [List.length_cons]; omega)

theorem bufPut_within {m : Memory} {k : Nat} (v : Sym) (h : withinDepth m) (hk : k < Config.bufDepth) :
    withinDepth (bufPut m k v) := by
  intro c hc
  rcases bufPut_mem hc with rfl | hc
  · exact hk
  · exact h c hc

theorem bufPutFrom_within {m : Memory} {k : Nat} {vs : List Sym} (h : withinDepth m) (hk : k + vs.length ≤ Config.bufDepth) :
    withinDepth (bufPutFrom m k vs) := by
  intro c hc
  rcases bufPutFrom_mem hc with hc | hc
  · exact h c hc
  · omega

/-! ### Position arithmetic -/

theorem modSize_toNat (sz : GridSize) (a : Int) : ((modSize sz a).toNat : Int) = a % (sz.side : Int) := by
  have h1 := side_cases sz
  have h2 : 0 ≤ a % (sz.side : Int) := by rcases h1 with h | h <;> rw [h] <;> omega
  have h3 : a % (sz.side : Int) < 7 := by rcases h1 with h | h <;> rw [h] <;> omega
  simp only [modSize, BitVec.toNat_ofNat]
  omega

theorem modSize_lt (sz : GridSize) (a : Int) : (modSize sz a).toNat < sz.side := by
  have h1 := modSize_toNat sz a
  have h2 : a % (sz.side : Int) < sz.side := Int.emod_lt_of_pos _ (by have := side_pos sz; omega)
  omega

theorem bitVec3_ext {a b : BitVec 3} (h : (a.toNat : Int) = b.toNat) : a = b := BitVec.eq_of_toNat_eq (by omega)

theorem pos_ext {p q : Pos} (hr : p.row = q.row) (hc : p.col = q.col) : p = q := by
  cases p; cases q; simp_all

theorem padd_valid (sz : GridSize) (a b : Pos) : posValid sz (padd sz a b) := ⟨modSize_lt sz _, modSize_lt sz _⟩

theorem psub_valid (sz : GridSize) (a b : Pos) : posValid sz (psub sz a b) := ⟨modSize_lt sz _, modSize_lt sz _⟩

theorem zero_valid (sz : GridSize) : posValid sz ⟨0, 0⟩ := by
  have := side_pos sz
  exact ⟨by simpa using this, by simpa using this⟩

theorem mkr_valid {sz : GridSize} {M : Pos} (r : Nat) (n : Int) (h : posValid sz M) : posValid sz (mkr sz M r n) := by
  rw [mkr]
  split
  · exact ⟨h.1, modSize_lt sz _⟩
  · exact h

theorem mkc_valid {sz : GridSize} {M : Pos} (c : Nat) (n : Int) (h : posValid sz M) : posValid sz (mkc sz M c n) := by
  rw [mkc]
  split
  · exact ⟨modSize_lt sz _, h.2⟩
  · exact h

theorem flat_lt {sz : GridSize} {p : Pos} (h : posValid sz p) : flat sz p < sz.count := by
  obtain ⟨h1, h2⟩ := h
  rw [flat, count_eq]
  cases sz <;> simp only [GridSize.side] at * <;> omega

theorem posOfFlat_row (sz : GridSize) {k : Nat} (h : k < sz.count) : (posOfFlat sz k).row.toNat = k / sz.side := by
  rw [count_eq] at h
  simp only [posOfFlat, BitVec.toNat_ofNat]
  cases sz <;> simp only [GridSize.side] at * <;> omega

theorem posOfFlat_col (sz : GridSize) (k : Nat) : (posOfFlat sz k).col.toNat = k % sz.side := by
  simp only [posOfFlat, BitVec.toNat_ofNat]
  cases sz <;> simp only [GridSize.side] at * <;> omega

theorem posOfFlat_valid (sz : GridSize) {k : Nat} (h : k < sz.count) : posValid sz (posOfFlat sz k) := by
  refine ⟨?_, ?_⟩
  · rw [posOfFlat_row sz h]
    rw [count_eq] at h
    exact Nat.div_lt_of_lt_mul h
  · rw [posOfFlat_col]
    exact Nat.mod_lt _ (side_pos sz)

/-- The flat index of the position of a flat index. -/
theorem flat_posOfFlat (sz : GridSize) {k : Nat} (h : k < sz.count) : flat sz (posOfFlat sz k) = k := by
  rw [flat, posOfFlat_row sz h, posOfFlat_col]
  exact Nat.div_add_mod' k sz.side

/-- The position of the flat index of a position. -/
theorem posOfFlat_flat {sz : GridSize} {p : Pos} (h : posValid sz p) : posOfFlat sz (flat sz p) = p := by
  have hl := flat_lt h
  obtain ⟨h1, h2⟩ := h
  apply pos_ext
  · apply BitVec.eq_of_toNat_eq
    rw [posOfFlat_row sz hl, flat]
    cases sz <;> simp only [GridSize.side] at * <;> omega
  · apply BitVec.eq_of_toNat_eq
    rw [posOfFlat_col, flat]
    cases sz <;> simp only [GridSize.side] at * <;> omega

theorem ix_valid {sz : GridSize} {v : Sym} (h : v.toNat < sz.count) : posValid sz (ix sz v) := posOfFlat_valid sz h

end Machine

end Sys2Proof
end

