-- ==== Sys2Proof/Laws/Grid.lean ====
section
/-! SUPPORT. What the grid functions do, said once: the cells of a rotation by coordinates, the search `posof`, and the shared step
functions of the cipher (40_grid_ops R124 to R128, 42_cipher_step R171 to R173). -/

namespace Sys2Proof.Machine

/-! ### Coordinates -/

theorem flat_div (sz : GridSize) (r : Nat) {c : Nat} (hc : c < sz.side) : (r * sz.side + c) / sz.side = r := by
  rw [Nat.mul_comm, Nat.mul_add_div (side_pos sz), Nat.div_eq_of_lt hc, Nat.add_zero]

theorem flat_mod (sz : GridSize) (r : Nat) {c : Nat} (hc : c < sz.side) : (r * sz.side + c) % sz.side = c := by
  rw [Nat.mul_comm, Nat.mul_add_mod, Nat.mod_eq_of_lt hc]

theorem flat_lt_count (sz : GridSize) {r c : Nat} (hr : r < sz.side) (hc : c < sz.side) : r * sz.side + c < sz.count := by
  rw [count_eq]
  cases sz <;> simp only [GridSize.side] at * <;> omega

/-- Every cell index below `N` is the index of a row and a column. -/
theorem exists_flat (sz : GridSize) {k : Nat} (h : k < sz.count) :
    ∃ r c, r < sz.side ∧ c < sz.side ∧ k = r * sz.side + c := by
  refine ⟨k / sz.side, k % sz.side, ?_, Nat.mod_lt _ (side_pos sz), (Nat.div_add_mod' k sz.side).symm⟩
  exact Nat.div_lt_of_lt_mul h

/-- Row and column are determined by the cell index. -/
theorem flat_inj (sz : GridSize) {r c r' c' : Nat} (hc : c < sz.side) (hc' : c' < sz.side)
    (h : r * sz.side + c = r' * sz.side + c') : r = r' ∧ c = c' := by
  have h1 := flat_div sz r hc
  have h2 := flat_mod sz r hc
  rw [h, flat_div sz r' hc'] at h1
  rw [h, flat_mod sz r' hc'] at h2
  exact ⟨h1.symm, h2.symm⟩

/-! ### The floored modulus -/

theorem modSize_of_lt (sz : GridSize) {a : Nat} (h : a < sz.side) : (modSize sz (a : Int)).toNat = a := by
  have := modSize_toNat sz a
  rw [Int.emod_eq_of_lt (by omega) (by omega)] at this
  omega

/-- Reducing twice is reducing once. -/
theorem modSize_add (sz : GridSize) (a b : Int) : modSize sz (((modSize sz a).toNat : Int) + b) = modSize sz (a + b) := by
  apply bitVec3_ext
  rw [modSize_toNat, modSize_toNat, modSize_toNat, Int.emod_add_emod]

theorem modSize_congr (sz : GridSize) {a b : Int} (h : a % (sz.side : Int) = b % (sz.side : Int)) : modSize sz a = modSize sz b := by
  apply bitVec3_ext
  rw [modSize_toNat, modSize_toNat, h]

/-! ### Rotations, cell by cell -/

/-- A row rotation (R125): the rotated row reads from `n` columns back, every other row as before. -/
theorem cell_rotr (sz : GridSize) (G : Grid) (r : Nat) (n : Int) {r' c' : Nat} (hr : r' < sz.side) (hc : c' < sz.side) :
    cell (rotr sz G r n) (r' * sz.side + c') =
      if r' = r then cell G (r' * sz.side + (modSize sz ((c' : Int) - n)).toNat) else cell G (r' * sz.side + c') := by
  have h1 := flat_lt_count sz hr hc
  have h2 := count_le sz
  rw [rotr, cell_tabulate_lt _ (by omega), flat_div sz r' hc, flat_mod sz r' hc]
  by_cases h : r' = r
  · subst h; rw [if_pos ⟨h1, rfl⟩, if_pos rfl]
  · rw [if_neg (by simp [h]), if_neg h]

/-- A column rotation (R126): the rotated column reads from `n` rows back, every other column as before. -/
theorem cell_rotc (sz : GridSize) (G : Grid) (c : Nat) (n : Int) {r' c' : Nat} (hr : r' < sz.side) (hc : c' < sz.side) :
    cell (rotc sz G c n) (r' * sz.side + c') =
      if c' = c then cell G ((modSize sz ((r' : Int) - n)).toNat * sz.side + c') else cell G (r' * sz.side + c') := by
  have h1 := flat_lt_count sz hr hc
  have h2 := count_le sz
  rw [rotc, cell_tabulate_lt _ (by omega), flat_div sz r' hc, flat_mod sz r' hc]
  by_cases h : c' = c
  · subst h; rw [if_pos ⟨h1, rfl⟩, if_pos rfl]
  · rw [if_neg (by simp [h]), if_neg h]

/-- The cells at and above `N` do not take part in a rotation. -/
theorem cell_rotr_high (sz : GridSize) (G : Grid) (r : Nat) (n : Int) {k : Nat} (h : sz.count ≤ k) (hk : k < 64) :
    cell (rotr sz G r n) k = cell G k := by
  rw [rotr, cell_tabulate_lt _ hk, if_neg (by omega)]

theorem cell_rotc_high (sz : GridSize) (G : Grid) (c : Nat) (n : Int) {k : Nat} (h : sz.count ≤ k) (hk : k < 64) :
    cell (rotc sz G c n) k = cell G k := by
  rw [rotc, cell_tabulate_lt _ hk, if_neg (by omega)]

/-- The identity grid (00_scope R13). -/
theorem cell_identityGrid (sz : GridSize) {k : Nat} (h : k < sz.count) : cell (identityGrid sz) k = BitVec.ofNat 6 k := by
  have := count_le sz
  rw [identityGrid, cell_tabulate_lt _ (by omega), if_pos h]

/-! ### The search -/

/-- What `posof` answers (R124): a position that holds the symbol. -/
theorem posof_some {sz : GridSize} {G : Grid} {v : Sym} {p : Pos} (h : posof sz G v = some p) :
    posValid sz p ∧ symat sz G p = v := by
  rw [posof, Option.map_eq_some_iff] at h
  obtain ⟨k, hk, rfl⟩ := h
  have h1 : k < sz.count := by simpa using List.mem_of_find?_eq_some hk
  have h2 := List.find?_some hk
  refine ⟨posOfFlat_valid sz h1, ?_⟩
  rw [symat, flat_posOfFlat sz h1]
  simpa using h2

/-- `posof` fails exactly when no cell below `N` holds the symbol (R124). -/
theorem posof_none {sz : GridSize} {G : Grid} {v : Sym} :
    posof sz G v = none ↔ ∀ k, k < sz.count → cell G k ≠ v := by
  rw [posof, Option.map_eq_none_iff, List.find?_eq_none]
  simp

/-- On a valid grid a position is found from the symbol it holds. -/
theorem posof_symat {sz : GridSize} {G : Grid} {p : Pos} (hG : gridValid sz G) (hp : posValid sz p) :
    posof sz G (symat sz G p) = some p := by
  cases h : posof sz G (symat sz G p) with
  | none =>
    exact absurd rfl (posof_none.1 h (flat sz p) (flat_lt hp))
  | some q =>
    obtain ⟨h1, h2⟩ := posof_some h
    have := hG.2 _ (flat_lt h1) _ (flat_lt hp) h2
    rw [← posOfFlat_flat h1, this, posOfFlat_flat hp]

/-- Every code `< N` is in a valid grid: an injective map of `0 .. N-1` into itself is onto. -/
theorem exists_cell {sz : GridSize} {G : Grid} (hG : gridValid sz G) {v : Sym} (hv : v.toNat < sz.count) :
    ∃ k, k < sz.count ∧ cell G k = v := by
  let f : Fin sz.count → Fin sz.count := fun k => ⟨(cell G k).toNat, hG.1 k k.isLt⟩
  have hf : Function.Injective f := by
    intro a b hab
    have h1 : (cell G a).toNat = (cell G b).toNat := by simpa [f] using hab
    exact Fin.ext (hG.2 a a.isLt b b.isLt (BitVec.eq_of_toNat_eq h1))
  obtain ⟨k, hk⟩ := (Finite.injective_iff_surjective.1 hf) ⟨v.toNat, hv⟩
  refine ⟨k, k.isLt, BitVec.eq_of_toNat_eq ?_⟩
  simpa [f] using hk

/-- On a valid grid `posof` succeeds for every code `< N` (R124). -/
theorem exists_posof {sz : GridSize} {G : Grid} (hG : gridValid sz G) {v : Sym} (hv : v.toNat < sz.count) :
    ∃ p, posof sz G v = some p := by
  obtain ⟨k, hk, rfl⟩ := exists_cell hG hv
  cases h : posof sz G (cell G k) with
  | none => exact absurd rfl (posof_none.1 h k hk)
  | some p => exact ⟨p, rfl⟩

theorem symat_lt {sz : GridSize} {G : Grid} {p : Pos} (hG : gridValid sz G) (hp : posValid sz p) :
    (symat sz G p).toNat < sz.count := hG.1 _ (flat_lt hp)

/-! ### The step functions, said once -/

/-- Everything `tail` can answer (42_cipher_step R171). -/
theorem tail_cases {sz : GridSize} {mode : MarkerMode} {W W' : Work} {pp : Pos} {c : Sym} (h : tail sz mode W pp c = some W') :
    ∃ cp', posof sz (rotr sz W.grid pp.row.toNat 1) c = some cp' ∧
      W' = ⟨rotc sz (rotr sz W.grid pp.row.toNat 1) cp'.col.toNat 1,
        padd sz (adjust mode (mkc sz (adjust mode (mkr sz W.marker pp.row.toNat 1) W.marker) cp'.col.toNat 1)
          (adjust mode (mkr sz W.marker pp.row.toNat 1) W.marker)) (ix sz c)⟩ := by
  simp only [tail] at h
  split at h
  · cases h
  · rename_i cp' hcp
    exact ⟨cp', hcp, by simpa using h.symm⟩

/-- Everything `encstep` can answer (R172). -/
theorem encstep_cases {sz : GridSize} {mode : MarkerMode} {W W' : Work} {p c : Sym} (h : encstep sz mode W p = some (W', c)) :
    ∃ pp, posof sz W.grid p = some pp ∧ c = symat sz W.grid (padd sz pp (mix sz W)) ∧ tail sz mode W pp c = some W' := by
  simp only [encstep] at h
  split at h
  · cases h
  · rename_i pp hpp
    split at h
    · cases h
    · rename_i W1 hW
      simp only [Option.some.injEq, Prod.mk.injEq] at h
      obtain ⟨rfl, rfl⟩ := h
      exact ⟨pp, hpp, rfl, hW⟩

/-- Everything `decstep` can answer (R173). -/
theorem decstep_cases {sz : GridSize} {mode : MarkerMode} {W W' : Work} {p c : Sym} (h : decstep sz mode W c = some (W', p)) :
    ∃ cp, posof sz W.grid c = some cp ∧ p = symat sz W.grid (psub sz cp (mix sz W)) ∧
      tail sz mode W (psub sz cp (mix sz W)) c = some W' := by
  simp only [decstep] at h
  split at h
  · cases h
  · rename_i cp hcp
    split at h
    · cases h
    · rename_i W1 hW
      simp only [Option.some.injEq, Prod.mk.injEq] at h
      obtain ⟨rfl, rfl⟩ := h
      exact ⟨cp, hcp, rfl, hW⟩

/-- Everything a fold over one more symbol can answer (43_message_commands R191). -/
theorem foldSteps_cons {f : Work → Sym → Option (Work × Sym)} {W W' : Work} {x : Sym} {xs ys : List Sym} :
    foldSteps f W (x :: xs) = some (W', ys) ↔
      ∃ W1 y ys', f W x = some (W1, y) ∧ foldSteps f W1 xs = some (W', ys') ∧ ys = y :: ys' := by
  simp only [foldSteps]
  constructor
  · intro h
    split at h
    · cases h
    · rename_i W1 y hW
      split at h
      · cases h
      · rename_i W2 ys' hF
        simp only [Option.some.injEq, Prod.mk.injEq] at h
        obtain ⟨rfl, rfl⟩ := h
        exact ⟨W1, y, ys', hW, hF, rfl⟩
  · rintro ⟨W1, y, ys', h1, h2, rfl⟩
    simp [h1, h2]

@[simp] theorem foldSteps_nil (f : Work → Sym → Option (Work × Sym)) (W : Work) : foldSteps f W [] = some (W, []) := rfl

/-- A fold has one output per symbol. -/
theorem foldSteps_length {f : Work → Sym → Option (Work × Sym)} {W W' : Work} {xs ys : List Sym}
    (h : foldSteps f W xs = some (W', ys)) : ys.length = xs.length := by
  induction xs generalizing W ys with
  | nil => simp at h; simp [← h.2]
  | cons x xs ih =>
    obtain ⟨W1, y, ys', _, h2, rfl⟩ := foldSteps_cons.1 h
    simp [ih h2]

end Sys2Proof.Machine
end

