-- ==== Sys2Proof/Laws/State.lean ====
section
/-! SUPPORT. What each shared update of the state does to each field: one lemma per field per update, so that no proof unfolds a
record update. -/

namespace Sys2Proof.Machine

/-! ### `succeed` -/

@[simp] theorem succeed_config (s : State) : (succeed s).config = s.config := rfl
@[simp] theorem succeed_status (s : State) : (succeed s).status = completeStatus false s.status := rfl
@[simp] theorem succeed_ecode (s : State) : (succeed s).ecode = 0 := rfl
@[simp] theorem succeed_ien (s : State) : (succeed s).ien = s.ien := rfl
@[simp] theorem succeed_cmd (s : State) : (succeed s).cmd = s.cmd := rfl
@[simp] theorem succeed_len (s : State) : (succeed s).len = s.len := rfl
@[simp] theorem succeed_nlen (s : State) : (succeed s).nlen = s.nlen := rfl
@[simp] theorem succeed_olen (s : State) : (succeed s).olen = s.olen := rfl
@[simp] theorem succeed_idx (s : State) : (succeed s).idx = s.idx := rfl
@[simp] theorem succeed_rsym (s : State) : (succeed s).rsym = s.rsym := rfl
@[simp] theorem succeed_rpos (s : State) : (succeed s).rpos = s.rpos := rfl
@[simp] theorem succeed_key (s : State) : (succeed s).key = s.key := rfl
@[simp] theorem succeed_grid (s : State) : (succeed s).grid = s.grid := rfl
@[simp] theorem succeed_marker (s : State) : (succeed s).marker = s.marker := rfl
@[simp] theorem succeed_find (s : State) : (succeed s).find = noFindings := rfl
@[simp] theorem succeed_ibuf (s : State) : (succeed s).ibuf = s.ibuf := rfl
@[simp] theorem succeed_obuf (s : State) : (succeed s).obuf = s.obuf := rfl
@[simp] theorem succeed_agenda (s : State) : (succeed s).agenda = s.agenda := rfl
@[simp] theorem succeed_rdata (s : State) : (succeed s).rdata = s.rdata := rfl
@[simp] theorem succeed_draws (s : State) : (succeed s).draws = s.draws := rfl
@[simp] theorem succeed_hardResets (s : State) : (succeed s).hardResets = s.hardResets := rfl

/-! ### `fail` -/

@[simp] theorem fail_config (e : CmdError) (f : Findings) (s : State) : (fail e f s).config = s.config := rfl
@[simp] theorem fail_status (e : CmdError) (f : Findings) (s : State) : (fail e f s).status = completeStatus true s.status := rfl
@[simp] theorem fail_ecode (e : CmdError) (f : Findings) (s : State) : (fail e f s).ecode = ecodeOf (errorCode e) f := rfl
@[simp] theorem fail_ien (e : CmdError) (f : Findings) (s : State) : (fail e f s).ien = s.ien := rfl
@[simp] theorem fail_cmd (e : CmdError) (f : Findings) (s : State) : (fail e f s).cmd = s.cmd := rfl
@[simp] theorem fail_len (e : CmdError) (f : Findings) (s : State) : (fail e f s).len = s.len := rfl
@[simp] theorem fail_nlen (e : CmdError) (f : Findings) (s : State) : (fail e f s).nlen = s.nlen := rfl
@[simp] theorem fail_olen (e : CmdError) (f : Findings) (s : State) : (fail e f s).olen = s.olen := rfl
@[simp] theorem fail_idx (e : CmdError) (f : Findings) (s : State) : (fail e f s).idx = s.idx := rfl
@[simp] theorem fail_rsym (e : CmdError) (f : Findings) (s : State) : (fail e f s).rsym = s.rsym := rfl
@[simp] theorem fail_rpos (e : CmdError) (f : Findings) (s : State) : (fail e f s).rpos = s.rpos := rfl
@[simp] theorem fail_key (e : CmdError) (f : Findings) (s : State) : (fail e f s).key = s.key := rfl
@[simp] theorem fail_grid (e : CmdError) (f : Findings) (s : State) : (fail e f s).grid = s.grid := rfl
@[simp] theorem fail_marker (e : CmdError) (f : Findings) (s : State) : (fail e f s).marker = s.marker := rfl
@[simp] theorem fail_find (e : CmdError) (f : Findings) (s : State) : (fail e f s).find = f := rfl
@[simp] theorem fail_ibuf (e : CmdError) (f : Findings) (s : State) : (fail e f s).ibuf = s.ibuf := rfl
@[simp] theorem fail_obuf (e : CmdError) (f : Findings) (s : State) : (fail e f s).obuf = s.obuf := rfl
@[simp] theorem fail_agenda (e : CmdError) (f : Findings) (s : State) : (fail e f s).agenda = s.agenda := rfl
@[simp] theorem fail_rdata (e : CmdError) (f : Findings) (s : State) : (fail e f s).rdata = s.rdata := rfl
@[simp] theorem fail_draws (e : CmdError) (f : Findings) (s : State) : (fail e f s).draws = s.draws := rfl
@[simp] theorem fail_hardResets (e : CmdError) (f : Findings) (s : State) : (fail e f s).hardResets = s.hardResets := rfl

/-! ### `fatal` -/

@[simp] theorem fatal_config (s : State) : (fatal s).config = s.config := rfl
@[simp] theorem fatal_status (s : State) : (fatal s).status = { completeStatus true s.status with fatal := true } := rfl
@[simp] theorem fatal_ecode (s : State) : (fatal s).ecode = ecodeOf symbolNotFoundCode noFindings := rfl
@[simp] theorem fatal_ien (s : State) : (fatal s).ien = s.ien := rfl
@[simp] theorem fatal_cmd (s : State) : (fatal s).cmd = s.cmd := rfl
@[simp] theorem fatal_len (s : State) : (fatal s).len = s.len := rfl
@[simp] theorem fatal_nlen (s : State) : (fatal s).nlen = s.nlen := rfl
@[simp] theorem fatal_olen (s : State) : (fatal s).olen = s.olen := rfl
@[simp] theorem fatal_idx (s : State) : (fatal s).idx = s.idx := rfl
@[simp] theorem fatal_rsym (s : State) : (fatal s).rsym = s.rsym := rfl
@[simp] theorem fatal_rpos (s : State) : (fatal s).rpos = s.rpos := rfl
@[simp] theorem fatal_key (s : State) : (fatal s).key = s.key := rfl
@[simp] theorem fatal_grid (s : State) : (fatal s).grid = s.grid := rfl
@[simp] theorem fatal_marker (s : State) : (fatal s).marker = s.marker := rfl
@[simp] theorem fatal_find (s : State) : (fatal s).find = noFindings := rfl
@[simp] theorem fatal_ibuf (s : State) : (fatal s).ibuf = s.ibuf := rfl
@[simp] theorem fatal_obuf (s : State) : (fatal s).obuf = s.obuf := rfl
@[simp] theorem fatal_agenda (s : State) : (fatal s).agenda = s.agenda := rfl
@[simp] theorem fatal_rdata (s : State) : (fatal s).rdata = s.rdata := rfl
@[simp] theorem fatal_draws (s : State) : (fatal s).draws = s.draws := rfl
@[simp] theorem fatal_hardResets (s : State) : (fatal s).hardResets = s.hardResets := rfl

/-! ### `dropGrid` -/

@[simp] theorem dropGrid_config (s : State) : (dropGrid s).config = s.config := rfl
@[simp] theorem dropGrid_status (s : State) : (dropGrid s).status = { s.status with gridvalid := false } := rfl
@[simp] theorem dropGrid_ecode (s : State) : (dropGrid s).ecode = s.ecode := rfl
@[simp] theorem dropGrid_ien (s : State) : (dropGrid s).ien = s.ien := rfl
@[simp] theorem dropGrid_cmd (s : State) : (dropGrid s).cmd = s.cmd := rfl
@[simp] theorem dropGrid_len (s : State) : (dropGrid s).len = s.len := rfl
@[simp] theorem dropGrid_nlen (s : State) : (dropGrid s).nlen = s.nlen := rfl
@[simp] theorem dropGrid_olen (s : State) : (dropGrid s).olen = s.olen := rfl
@[simp] theorem dropGrid_idx (s : State) : (dropGrid s).idx = s.idx := rfl
@[simp] theorem dropGrid_rsym (s : State) : (dropGrid s).rsym = s.rsym := rfl
@[simp] theorem dropGrid_rpos (s : State) : (dropGrid s).rpos = s.rpos := rfl
@[simp] theorem dropGrid_key (s : State) : (dropGrid s).key = s.key := rfl
@[simp] theorem dropGrid_grid (s : State) : (dropGrid s).grid = s.grid := rfl
@[simp] theorem dropGrid_marker (s : State) : (dropGrid s).marker = s.marker := rfl
@[simp] theorem dropGrid_find (s : State) : (dropGrid s).find = s.find := rfl
@[simp] theorem dropGrid_ibuf (s : State) : (dropGrid s).ibuf = s.ibuf := rfl
@[simp] theorem dropGrid_obuf (s : State) : (dropGrid s).obuf = s.obuf := rfl
@[simp] theorem dropGrid_agenda (s : State) : (dropGrid s).agenda = s.agenda := rfl
@[simp] theorem dropGrid_rdata (s : State) : (dropGrid s).rdata = s.rdata := rfl
@[simp] theorem dropGrid_draws (s : State) : (dropGrid s).draws = s.draws := rfl
@[simp] theorem dropGrid_hardResets (s : State) : (dropGrid s).hardResets = s.hardResets := rfl

/-! ### `fatalInStep` -/

@[simp] theorem fatalInStep_config (s : State) : (fatalInStep s).config = s.config := rfl
@[simp] theorem fatalInStep_status (s : State) : (fatalInStep s).status = { completeStatus true s.status with fatal := true, gridvalid := false } := rfl
@[simp] theorem fatalInStep_ecode (s : State) : (fatalInStep s).ecode = ecodeOf symbolNotFoundCode noFindings := rfl
@[simp] theorem fatalInStep_ien (s : State) : (fatalInStep s).ien = s.ien := rfl
@[simp] theorem fatalInStep_cmd (s : State) : (fatalInStep s).cmd = s.cmd := rfl
@[simp] theorem fatalInStep_len (s : State) : (fatalInStep s).len = s.len := rfl
@[simp] theorem fatalInStep_nlen (s : State) : (fatalInStep s).nlen = s.nlen := rfl
@[simp] theorem fatalInStep_olen (s : State) : (fatalInStep s).olen = s.olen := rfl
@[simp] theorem fatalInStep_idx (s : State) : (fatalInStep s).idx = s.idx := rfl
@[simp] theorem fatalInStep_rsym (s : State) : (fatalInStep s).rsym = s.rsym := rfl
@[simp] theorem fatalInStep_rpos (s : State) : (fatalInStep s).rpos = s.rpos := rfl
@[simp] theorem fatalInStep_key (s : State) : (fatalInStep s).key = s.key := rfl
@[simp] theorem fatalInStep_grid (s : State) : (fatalInStep s).grid = s.grid := rfl
@[simp] theorem fatalInStep_marker (s : State) : (fatalInStep s).marker = s.marker := rfl
@[simp] theorem fatalInStep_find (s : State) : (fatalInStep s).find = noFindings := rfl
@[simp] theorem fatalInStep_ibuf (s : State) : (fatalInStep s).ibuf = s.ibuf := rfl
@[simp] theorem fatalInStep_obuf (s : State) : (fatalInStep s).obuf = s.obuf := rfl
@[simp] theorem fatalInStep_agenda (s : State) : (fatalInStep s).agenda = s.agenda := rfl
@[simp] theorem fatalInStep_rdata (s : State) : (fatalInStep s).rdata = s.rdata := rfl
@[simp] theorem fatalInStep_draws (s : State) : (fatalInStep s).draws = s.draws := rfl
@[simp] theorem fatalInStep_hardResets (s : State) : (fatalInStep s).hardResets = s.hardResets := rfl

/-! ### `fatalInMessage` -/

@[simp] theorem fatalInMessage_config (s : State) : (fatalInMessage s).config = s.config := rfl
@[simp] theorem fatalInMessage_status (s : State) : (fatalInMessage s).status = { completeStatus true s.status with fatal := true, gridvalid := false } := rfl
@[simp] theorem fatalInMessage_ecode (s : State) : (fatalInMessage s).ecode = ecodeOf symbolNotFoundCode noFindings := rfl
@[simp] theorem fatalInMessage_ien (s : State) : (fatalInMessage s).ien = s.ien := rfl
@[simp] theorem fatalInMessage_cmd (s : State) : (fatalInMessage s).cmd = s.cmd := rfl
@[simp] theorem fatalInMessage_len (s : State) : (fatalInMessage s).len = s.len := rfl
@[simp] theorem fatalInMessage_nlen (s : State) : (fatalInMessage s).nlen = s.nlen := rfl
@[simp] theorem fatalInMessage_olen (s : State) : (fatalInMessage s).olen = 0 := rfl
@[simp] theorem fatalInMessage_idx (s : State) : (fatalInMessage s).idx = 0 := rfl
@[simp] theorem fatalInMessage_rsym (s : State) : (fatalInMessage s).rsym = s.rsym := rfl
@[simp] theorem fatalInMessage_rpos (s : State) : (fatalInMessage s).rpos = s.rpos := rfl
@[simp] theorem fatalInMessage_key (s : State) : (fatalInMessage s).key = s.key := rfl
@[simp] theorem fatalInMessage_grid (s : State) : (fatalInMessage s).grid = s.grid := rfl
@[simp] theorem fatalInMessage_marker (s : State) : (fatalInMessage s).marker = s.marker := rfl
@[simp] theorem fatalInMessage_find (s : State) : (fatalInMessage s).find = noFindings := rfl
@[simp] theorem fatalInMessage_ibuf (s : State) : (fatalInMessage s).ibuf = s.ibuf := rfl
@[simp] theorem fatalInMessage_obuf (s : State) : (fatalInMessage s).obuf = s.obuf := rfl
@[simp] theorem fatalInMessage_agenda (s : State) : (fatalInMessage s).agenda = s.agenda := rfl
@[simp] theorem fatalInMessage_rdata (s : State) : (fatalInMessage s).rdata = s.rdata := rfl
@[simp] theorem fatalInMessage_draws (s : State) : (fatalInMessage s).draws = s.draws := rfl
@[simp] theorem fatalInMessage_hardResets (s : State) : (fatalInMessage s).hardResets = s.hardResets := rfl

/-! ### `failKeyInput` -/

@[simp] theorem failKeyInput_config (e : CmdError) (f : Findings) (s : State) : (failKeyInput e f s).config = s.config := rfl
@[simp] theorem failKeyInput_status (e : CmdError) (f : Findings) (s : State) : (failKeyInput e f s).status = completeStatus true s.status := rfl
@[simp] theorem failKeyInput_ecode (e : CmdError) (f : Findings) (s : State) : (failKeyInput e f s).ecode = ecodeOf (errorCode e) f := rfl
@[simp] theorem failKeyInput_ien (e : CmdError) (f : Findings) (s : State) : (failKeyInput e f s).ien = s.ien := rfl
@[simp] theorem failKeyInput_cmd (e : CmdError) (f : Findings) (s : State) : (failKeyInput e f s).cmd = s.cmd := rfl
@[simp] theorem failKeyInput_len (e : CmdError) (f : Findings) (s : State) : (failKeyInput e f s).len = s.len := rfl
@[simp] theorem failKeyInput_nlen (e : CmdError) (f : Findings) (s : State) : (failKeyInput e f s).nlen = s.nlen := rfl
@[simp] theorem failKeyInput_olen (e : CmdError) (f : Findings) (s : State) : (failKeyInput e f s).olen = s.olen := rfl
@[simp] theorem failKeyInput_idx (e : CmdError) (f : Findings) (s : State) : (failKeyInput e f s).idx = 0 := rfl
@[simp] theorem failKeyInput_rsym (e : CmdError) (f : Findings) (s : State) : (failKeyInput e f s).rsym = s.rsym := rfl
@[simp] theorem failKeyInput_rpos (e : CmdError) (f : Findings) (s : State) : (failKeyInput e f s).rpos = s.rpos := rfl
@[simp] theorem failKeyInput_key (e : CmdError) (f : Findings) (s : State) : (failKeyInput e f s).key = s.key := rfl
@[simp] theorem failKeyInput_grid (e : CmdError) (f : Findings) (s : State) : (failKeyInput e f s).grid = s.grid := rfl
@[simp] theorem failKeyInput_marker (e : CmdError) (f : Findings) (s : State) : (failKeyInput e f s).marker = s.marker := rfl
@[simp] theorem failKeyInput_find (e : CmdError) (f : Findings) (s : State) : (failKeyInput e f s).find = f := rfl
@[simp] theorem failKeyInput_ibuf (e : CmdError) (f : Findings) (s : State) : (failKeyInput e f s).ibuf = s.ibuf := rfl
@[simp] theorem failKeyInput_obuf (e : CmdError) (f : Findings) (s : State) : (failKeyInput e f s).obuf = s.obuf := rfl
@[simp] theorem failKeyInput_agenda (e : CmdError) (f : Findings) (s : State) : (failKeyInput e f s).agenda = s.agenda := rfl
@[simp] theorem failKeyInput_rdata (e : CmdError) (f : Findings) (s : State) : (failKeyInput e f s).rdata = s.rdata := rfl
@[simp] theorem failKeyInput_draws (e : CmdError) (f : Findings) (s : State) : (failKeyInput e f s).draws = s.draws := rfl
@[simp] theorem failKeyInput_hardResets (e : CmdError) (f : Findings) (s : State) : (failKeyInput e f s).hardResets = s.hardResets := rfl

/-! ### `failMessageInput` -/

@[simp] theorem failMessageInput_config (e : CmdError) (bad : SymSet) (s : State) : (failMessageInput e bad s).config = s.config := rfl
@[simp] theorem failMessageInput_status (e : CmdError) (bad : SymSet) (s : State) : (failMessageInput e bad s).status = completeStatus true s.status := rfl
@[simp] theorem failMessageInput_ecode (e : CmdError) (bad : SymSet) (s : State) : (failMessageInput e bad s).ecode = ecodeOf (errorCode e) (illFindings bad) := rfl
@[simp] theorem failMessageInput_ien (e : CmdError) (bad : SymSet) (s : State) : (failMessageInput e bad s).ien = s.ien := rfl
@[simp] theorem failMessageInput_cmd (e : CmdError) (bad : SymSet) (s : State) : (failMessageInput e bad s).cmd = s.cmd := rfl
@[simp] theorem failMessageInput_len (e : CmdError) (bad : SymSet) (s : State) : (failMessageInput e bad s).len = s.len := rfl
@[simp] theorem failMessageInput_nlen (e : CmdError) (bad : SymSet) (s : State) : (failMessageInput e bad s).nlen = s.nlen := rfl
@[simp] theorem failMessageInput_olen (e : CmdError) (bad : SymSet) (s : State) : (failMessageInput e bad s).olen = 0 := rfl
@[simp] theorem failMessageInput_idx (e : CmdError) (bad : SymSet) (s : State) : (failMessageInput e bad s).idx = 0 := rfl
@[simp] theorem failMessageInput_rsym (e : CmdError) (bad : SymSet) (s : State) : (failMessageInput e bad s).rsym = s.rsym := rfl
@[simp] theorem failMessageInput_rpos (e : CmdError) (bad : SymSet) (s : State) : (failMessageInput e bad s).rpos = s.rpos := rfl
@[simp] theorem failMessageInput_key (e : CmdError) (bad : SymSet) (s : State) : (failMessageInput e bad s).key = s.key := rfl
@[simp] theorem failMessageInput_grid (e : CmdError) (bad : SymSet) (s : State) : (failMessageInput e bad s).grid = s.grid := rfl
@[simp] theorem failMessageInput_marker (e : CmdError) (bad : SymSet) (s : State) : (failMessageInput e bad s).marker = s.marker := rfl
@[simp] theorem failMessageInput_find (e : CmdError) (bad : SymSet) (s : State) : (failMessageInput e bad s).find = illFindings bad := rfl
@[simp] theorem failMessageInput_ibuf (e : CmdError) (bad : SymSet) (s : State) : (failMessageInput e bad s).ibuf = s.ibuf := rfl
@[simp] theorem failMessageInput_obuf (e : CmdError) (bad : SymSet) (s : State) : (failMessageInput e bad s).obuf = s.obuf := rfl
@[simp] theorem failMessageInput_agenda (e : CmdError) (bad : SymSet) (s : State) : (failMessageInput e bad s).agenda = s.agenda := rfl
@[simp] theorem failMessageInput_rdata (e : CmdError) (bad : SymSet) (s : State) : (failMessageInput e bad s).rdata = s.rdata := rfl
@[simp] theorem failMessageInput_draws (e : CmdError) (bad : SymSet) (s : State) : (failMessageInput e bad s).draws = s.draws := rfl
@[simp] theorem failMessageInput_hardResets (e : CmdError) (bad : SymSet) (s : State) : (failMessageInput e bad s).hardResets = s.hardResets := rfl

/-! ### `refuse` -/

@[simp] theorem refuse_config (s : State) : (refuse s).config = s.config := rfl
@[simp] theorem refuse_status (s : State) : (refuse s).status = { s.status with buserr := true } := rfl
@[simp] theorem refuse_ecode (s : State) : (refuse s).ecode = s.ecode := rfl
@[simp] theorem refuse_ien (s : State) : (refuse s).ien = s.ien := rfl
@[simp] theorem refuse_cmd (s : State) : (refuse s).cmd = s.cmd := rfl
@[simp] theorem refuse_len (s : State) : (refuse s).len = s.len := rfl
@[simp] theorem refuse_nlen (s : State) : (refuse s).nlen = s.nlen := rfl
@[simp] theorem refuse_olen (s : State) : (refuse s).olen = s.olen := rfl
@[simp] theorem refuse_idx (s : State) : (refuse s).idx = s.idx := rfl
@[simp] theorem refuse_rsym (s : State) : (refuse s).rsym = s.rsym := rfl
@[simp] theorem refuse_rpos (s : State) : (refuse s).rpos = s.rpos := rfl
@[simp] theorem refuse_key (s : State) : (refuse s).key = s.key := rfl
@[simp] theorem refuse_grid (s : State) : (refuse s).grid = s.grid := rfl
@[simp] theorem refuse_marker (s : State) : (refuse s).marker = s.marker := rfl
@[simp] theorem refuse_find (s : State) : (refuse s).find = s.find := rfl
@[simp] theorem refuse_ibuf (s : State) : (refuse s).ibuf = s.ibuf := rfl
@[simp] theorem refuse_obuf (s : State) : (refuse s).obuf = s.obuf := rfl
@[simp] theorem refuse_agenda (s : State) : (refuse s).agenda = s.agenda := rfl
@[simp] theorem refuse_rdata (s : State) : (refuse s).rdata = s.rdata := rfl
@[simp] theorem refuse_draws (s : State) : (refuse s).draws = s.draws := rfl
@[simp] theorem refuse_hardResets (s : State) : (refuse s).hardResets = s.hardResets := rfl

/-! ### `accept` -/

@[simp] theorem accept_config (w : Word) (s : State) : (accept w s).config = s.config := rfl
@[simp] theorem accept_status (w : Word) (s : State) : (accept w s).status = { s.status with busy := true, done := false } := rfl
@[simp] theorem accept_ecode (w : Word) (s : State) : (accept w s).ecode = s.ecode := rfl
@[simp] theorem accept_ien (w : Word) (s : State) : (accept w s).ien = s.ien := rfl
@[simp] theorem accept_cmd (w : Word) (s : State) : (accept w s).cmd = w := rfl
@[simp] theorem accept_len (w : Word) (s : State) : (accept w s).len = s.len := rfl
@[simp] theorem accept_nlen (w : Word) (s : State) : (accept w s).nlen = s.nlen := rfl
@[simp] theorem accept_olen (w : Word) (s : State) : (accept w s).olen = s.olen := rfl
@[simp] theorem accept_idx (w : Word) (s : State) : (accept w s).idx = s.idx := rfl
@[simp] theorem accept_rsym (w : Word) (s : State) : (accept w s).rsym = s.rsym := rfl
@[simp] theorem accept_rpos (w : Word) (s : State) : (accept w s).rpos = s.rpos := rfl
@[simp] theorem accept_key (w : Word) (s : State) : (accept w s).key = s.key := rfl
@[simp] theorem accept_grid (w : Word) (s : State) : (accept w s).grid = s.grid := rfl
@[simp] theorem accept_marker (w : Word) (s : State) : (accept w s).marker = s.marker := rfl
@[simp] theorem accept_find (w : Word) (s : State) : (accept w s).find = s.find := rfl
@[simp] theorem accept_ibuf (w : Word) (s : State) : (accept w s).ibuf = s.ibuf := rfl
@[simp] theorem accept_obuf (w : Word) (s : State) : (accept w s).obuf = s.obuf := rfl
@[simp] theorem accept_agenda (w : Word) (s : State) : (accept w s).agenda = s.agenda := rfl
@[simp] theorem accept_rdata (w : Word) (s : State) : (accept w s).rdata = s.rdata := rfl
@[simp] theorem accept_draws (w : Word) (s : State) : (accept w s).draws = s.draws := rfl
@[simp] theorem accept_hardResets (w : Word) (s : State) : (accept w s).hardResets = s.hardResets := rfl

/-! ### `withCommand` -/

@[simp] theorem withCommand_config (w : Word) (s : State) : (withCommand w s).config = s.config := rfl
@[simp] theorem withCommand_status (w : Word) (s : State) : (withCommand w s).status = { s.status with busy := true, done := false } := rfl
@[simp] theorem withCommand_ecode (w : Word) (s : State) : (withCommand w s).ecode = s.ecode := rfl
@[simp] theorem withCommand_ien (w : Word) (s : State) : (withCommand w s).ien = s.ien := rfl
@[simp] theorem withCommand_cmd (w : Word) (s : State) : (withCommand w s).cmd = w := rfl
@[simp] theorem withCommand_len (w : Word) (s : State) : (withCommand w s).len = s.len := rfl
@[simp] theorem withCommand_nlen (w : Word) (s : State) : (withCommand w s).nlen = s.nlen := rfl
@[simp] theorem withCommand_olen (w : Word) (s : State) : (withCommand w s).olen = s.olen := rfl
@[simp] theorem withCommand_idx (w : Word) (s : State) : (withCommand w s).idx = s.idx := rfl
@[simp] theorem withCommand_rsym (w : Word) (s : State) : (withCommand w s).rsym = s.rsym := rfl
@[simp] theorem withCommand_rpos (w : Word) (s : State) : (withCommand w s).rpos = s.rpos := rfl
@[simp] theorem withCommand_key (w : Word) (s : State) : (withCommand w s).key = s.key := rfl
@[simp] theorem withCommand_grid (w : Word) (s : State) : (withCommand w s).grid = s.grid := rfl
@[simp] theorem withCommand_marker (w : Word) (s : State) : (withCommand w s).marker = s.marker := rfl
@[simp] theorem withCommand_find (w : Word) (s : State) : (withCommand w s).find = s.find := rfl
@[simp] theorem withCommand_ibuf (w : Word) (s : State) : (withCommand w s).ibuf = s.ibuf := rfl
@[simp] theorem withCommand_obuf (w : Word) (s : State) : (withCommand w s).obuf = s.obuf := rfl
@[simp] theorem withCommand_agenda (w : Word) (s : State) : (withCommand w s).agenda = engineFirst s.agenda := rfl
@[simp] theorem withCommand_rdata (w : Word) (s : State) : (withCommand w s).rdata = s.rdata := rfl
@[simp] theorem withCommand_draws (w : Word) (s : State) : (withCommand w s).draws = s.draws := rfl
@[simp] theorem withCommand_hardResets (w : Word) (s : State) : (withCommand w s).hardResets = s.hardResets := rfl

/-! ### `startCall` -/

@[simp] theorem startCall_config (sz : GridSize) (s : State) : (startCall sz s).config = s.config := rfl
@[simp] theorem startCall_status (sz : GridSize) (s : State) : (startCall sz s).status = { s.status with gridvalid := true } := rfl
@[simp] theorem startCall_ecode (sz : GridSize) (s : State) : (startCall sz s).ecode = s.ecode := rfl
@[simp] theorem startCall_ien (sz : GridSize) (s : State) : (startCall sz s).ien = s.ien := rfl
@[simp] theorem startCall_cmd (sz : GridSize) (s : State) : (startCall sz s).cmd = s.cmd := rfl
@[simp] theorem startCall_len (sz : GridSize) (s : State) : (startCall sz s).len = s.len := rfl
@[simp] theorem startCall_nlen (sz : GridSize) (s : State) : (startCall sz s).nlen = s.nlen := rfl
@[simp] theorem startCall_olen (sz : GridSize) (s : State) : (startCall sz s).olen = s.olen := rfl
@[simp] theorem startCall_idx (sz : GridSize) (s : State) : (startCall sz s).idx = s.idx := rfl
@[simp] theorem startCall_rsym (sz : GridSize) (s : State) : (startCall sz s).rsym = s.rsym := rfl
@[simp] theorem startCall_rpos (sz : GridSize) (s : State) : (startCall sz s).rpos = s.rpos := rfl
@[simp] theorem startCall_key (sz : GridSize) (s : State) : (startCall sz s).key = s.key := rfl
@[simp] theorem startCall_grid (sz : GridSize) (s : State) : (startCall sz s).grid = storeCells sz.count (cell s.key) s.grid := rfl
@[simp] theorem startCall_marker (sz : GridSize) (s : State) : (startCall sz s).marker = ⟨0, 0⟩ := rfl
@[simp] theorem startCall_find (sz : GridSize) (s : State) : (startCall sz s).find = s.find := rfl
@[simp] theorem startCall_ibuf (sz : GridSize) (s : State) : (startCall sz s).ibuf = s.ibuf := rfl
@[simp] theorem startCall_obuf (sz : GridSize) (s : State) : (startCall sz s).obuf = s.obuf := rfl
@[simp] theorem startCall_agenda (sz : GridSize) (s : State) : (startCall sz s).agenda = s.agenda := rfl
@[simp] theorem startCall_rdata (sz : GridSize) (s : State) : (startCall sz s).rdata = s.rdata := rfl
@[simp] theorem startCall_draws (sz : GridSize) (s : State) : (startCall sz s).draws = s.draws := rfl
@[simp] theorem startCall_hardResets (sz : GridSize) (s : State) : (startCall sz s).hardResets = s.hardResets := rfl

/-! ### `loadKey` -/

@[simp] theorem loadKey_config (sz : GridSize) (f : Nat → Sym) (s : State) : (loadKey sz f s).config = s.config := rfl
@[simp] theorem loadKey_status (sz : GridSize) (f : Nat → Sym) (s : State) : (loadKey sz f s).status = { s.status with keyvalid := true } := rfl
@[simp] theorem loadKey_ecode (sz : GridSize) (f : Nat → Sym) (s : State) : (loadKey sz f s).ecode = s.ecode := rfl
@[simp] theorem loadKey_ien (sz : GridSize) (f : Nat → Sym) (s : State) : (loadKey sz f s).ien = s.ien := rfl
@[simp] theorem loadKey_cmd (sz : GridSize) (f : Nat → Sym) (s : State) : (loadKey sz f s).cmd = s.cmd := rfl
@[simp] theorem loadKey_len (sz : GridSize) (f : Nat → Sym) (s : State) : (loadKey sz f s).len = s.len := rfl
@[simp] theorem loadKey_nlen (sz : GridSize) (f : Nat → Sym) (s : State) : (loadKey sz f s).nlen = s.nlen := rfl
@[simp] theorem loadKey_olen (sz : GridSize) (f : Nat → Sym) (s : State) : (loadKey sz f s).olen = s.olen := rfl
@[simp] theorem loadKey_idx (sz : GridSize) (f : Nat → Sym) (s : State) : (loadKey sz f s).idx = s.idx := rfl
@[simp] theorem loadKey_rsym (sz : GridSize) (f : Nat → Sym) (s : State) : (loadKey sz f s).rsym = s.rsym := rfl
@[simp] theorem loadKey_rpos (sz : GridSize) (f : Nat → Sym) (s : State) : (loadKey sz f s).rpos = s.rpos := rfl
@[simp] theorem loadKey_key (sz : GridSize) (f : Nat → Sym) (s : State) : (loadKey sz f s).key = storeCells sz.count f s.key := rfl
@[simp] theorem loadKey_grid (sz : GridSize) (f : Nat → Sym) (s : State) : (loadKey sz f s).grid = s.grid := rfl
@[simp] theorem loadKey_marker (sz : GridSize) (f : Nat → Sym) (s : State) : (loadKey sz f s).marker = s.marker := rfl
@[simp] theorem loadKey_find (sz : GridSize) (f : Nat → Sym) (s : State) : (loadKey sz f s).find = s.find := rfl
@[simp] theorem loadKey_ibuf (sz : GridSize) (f : Nat → Sym) (s : State) : (loadKey sz f s).ibuf = s.ibuf := rfl
@[simp] theorem loadKey_obuf (sz : GridSize) (f : Nat → Sym) (s : State) : (loadKey sz f s).obuf = s.obuf := rfl
@[simp] theorem loadKey_agenda (sz : GridSize) (f : Nat → Sym) (s : State) : (loadKey sz f s).agenda = s.agenda := rfl
@[simp] theorem loadKey_rdata (sz : GridSize) (f : Nat → Sym) (s : State) : (loadKey sz f s).rdata = s.rdata := rfl
@[simp] theorem loadKey_draws (sz : GridSize) (f : Nat → Sym) (s : State) : (loadKey sz f s).draws = s.draws := rfl
@[simp] theorem loadKey_hardResets (sz : GridSize) (f : Nat → Sym) (s : State) : (loadKey sz f s).hardResets = s.hardResets := rfl

/-! ### `writeConfig` -/

@[simp] theorem writeConfig_config (c : ConfigReg) (s : State) : (writeConfig c s).config = c := rfl
@[simp] theorem writeConfig_status (c : ConfigReg) (s : State) : (writeConfig c s).status = { s.status with gridvalid := false, keyvalid := if c.size = s.config.size then s.status.keyvalid else false } := rfl
@[simp] theorem writeConfig_ecode (c : ConfigReg) (s : State) : (writeConfig c s).ecode = s.ecode := rfl
@[simp] theorem writeConfig_ien (c : ConfigReg) (s : State) : (writeConfig c s).ien = s.ien := rfl
@[simp] theorem writeConfig_cmd (c : ConfigReg) (s : State) : (writeConfig c s).cmd = s.cmd := rfl
@[simp] theorem writeConfig_len (c : ConfigReg) (s : State) : (writeConfig c s).len = s.len := rfl
@[simp] theorem writeConfig_nlen (c : ConfigReg) (s : State) : (writeConfig c s).nlen = s.nlen := rfl
@[simp] theorem writeConfig_olen (c : ConfigReg) (s : State) : (writeConfig c s).olen = s.olen := rfl
@[simp] theorem writeConfig_idx (c : ConfigReg) (s : State) : (writeConfig c s).idx = s.idx := rfl
@[simp] theorem writeConfig_rsym (c : ConfigReg) (s : State) : (writeConfig c s).rsym = s.rsym := rfl
@[simp] theorem writeConfig_rpos (c : ConfigReg) (s : State) : (writeConfig c s).rpos = s.rpos := rfl
@[simp] theorem writeConfig_key (c : ConfigReg) (s : State) : (writeConfig c s).key = s.key := rfl
@[simp] theorem writeConfig_grid (c : ConfigReg) (s : State) : (writeConfig c s).grid = s.grid := rfl
@[simp] theorem writeConfig_marker (c : ConfigReg) (s : State) : (writeConfig c s).marker = s.marker := rfl
@[simp] theorem writeConfig_find (c : ConfigReg) (s : State) : (writeConfig c s).find = s.find := rfl
@[simp] theorem writeConfig_ibuf (c : ConfigReg) (s : State) : (writeConfig c s).ibuf = s.ibuf := rfl
@[simp] theorem writeConfig_obuf (c : ConfigReg) (s : State) : (writeConfig c s).obuf = s.obuf := rfl
@[simp] theorem writeConfig_agenda (c : ConfigReg) (s : State) : (writeConfig c s).agenda = s.agenda := rfl
@[simp] theorem writeConfig_rdata (c : ConfigReg) (s : State) : (writeConfig c s).rdata = s.rdata := rfl
@[simp] theorem writeConfig_draws (c : ConfigReg) (s : State) : (writeConfig c s).draws = s.draws := rfl
@[simp] theorem writeConfig_hardResets (c : ConfigReg) (s : State) : (writeConfig c s).hardResets = s.hardResets := rfl

/-! ### `writeStatus` -/

@[simp] theorem writeStatus_config (w : Word) (s : State) : (writeStatus w s).config = s.config := rfl
@[simp] theorem writeStatus_status (w : Word) (s : State) : (writeStatus w s).status = { s.status with done := s.status.done && !w.getLsbD 1, buserr := s.status.buserr && !w.getLsbD 6 } := rfl
@[simp] theorem writeStatus_ecode (w : Word) (s : State) : (writeStatus w s).ecode = s.ecode := rfl
@[simp] theorem writeStatus_ien (w : Word) (s : State) : (writeStatus w s).ien = s.ien := rfl
@[simp] theorem writeStatus_cmd (w : Word) (s : State) : (writeStatus w s).cmd = s.cmd := rfl
@[simp] theorem writeStatus_len (w : Word) (s : State) : (writeStatus w s).len = s.len := rfl
@[simp] theorem writeStatus_nlen (w : Word) (s : State) : (writeStatus w s).nlen = s.nlen := rfl
@[simp] theorem writeStatus_olen (w : Word) (s : State) : (writeStatus w s).olen = s.olen := rfl
@[simp] theorem writeStatus_idx (w : Word) (s : State) : (writeStatus w s).idx = s.idx := rfl
@[simp] theorem writeStatus_rsym (w : Word) (s : State) : (writeStatus w s).rsym = s.rsym := rfl
@[simp] theorem writeStatus_rpos (w : Word) (s : State) : (writeStatus w s).rpos = s.rpos := rfl
@[simp] theorem writeStatus_key (w : Word) (s : State) : (writeStatus w s).key = s.key := rfl
@[simp] theorem writeStatus_grid (w : Word) (s : State) : (writeStatus w s).grid = s.grid := rfl
@[simp] theorem writeStatus_marker (w : Word) (s : State) : (writeStatus w s).marker = s.marker := rfl
@[simp] theorem writeStatus_find (w : Word) (s : State) : (writeStatus w s).find = s.find := rfl
@[simp] theorem writeStatus_ibuf (w : Word) (s : State) : (writeStatus w s).ibuf = s.ibuf := rfl
@[simp] theorem writeStatus_obuf (w : Word) (s : State) : (writeStatus w s).obuf = s.obuf := rfl
@[simp] theorem writeStatus_agenda (w : Word) (s : State) : (writeStatus w s).agenda = s.agenda := rfl
@[simp] theorem writeStatus_rdata (w : Word) (s : State) : (writeStatus w s).rdata = s.rdata := rfl
@[simp] theorem writeStatus_draws (w : Word) (s : State) : (writeStatus w s).draws = s.draws := rfl
@[simp] theorem writeStatus_hardResets (w : Word) (s : State) : (writeStatus w s).hardResets = s.hardResets := rfl

/-! ### `softReset` -/

@[simp] theorem softReset_config (s : State) : (softReset s).config = State.reset.config := rfl
@[simp] theorem softReset_status (s : State) : (softReset s).status = State.reset.status := rfl
@[simp] theorem softReset_ecode (s : State) : (softReset s).ecode = State.reset.ecode := rfl
@[simp] theorem softReset_ien (s : State) : (softReset s).ien = State.reset.ien := rfl
@[simp] theorem softReset_cmd (s : State) : (softReset s).cmd = State.reset.cmd := rfl
@[simp] theorem softReset_len (s : State) : (softReset s).len = State.reset.len := rfl
@[simp] theorem softReset_nlen (s : State) : (softReset s).nlen = State.reset.nlen := rfl
@[simp] theorem softReset_olen (s : State) : (softReset s).olen = State.reset.olen := rfl
@[simp] theorem softReset_idx (s : State) : (softReset s).idx = State.reset.idx := rfl
@[simp] theorem softReset_rsym (s : State) : (softReset s).rsym = State.reset.rsym := rfl
@[simp] theorem softReset_rpos (s : State) : (softReset s).rpos = State.reset.rpos := rfl
@[simp] theorem softReset_key (s : State) : (softReset s).key = State.reset.key := rfl
@[simp] theorem softReset_grid (s : State) : (softReset s).grid = State.reset.grid := rfl
@[simp] theorem softReset_marker (s : State) : (softReset s).marker = State.reset.marker := rfl
@[simp] theorem softReset_find (s : State) : (softReset s).find = State.reset.find := rfl
@[simp] theorem softReset_ibuf (s : State) : (softReset s).ibuf = s.ibuf := rfl
@[simp] theorem softReset_obuf (s : State) : (softReset s).obuf = s.obuf := rfl
@[simp] theorem softReset_agenda (s : State) : (softReset s).agenda = s.agenda := rfl
@[simp] theorem softReset_rdata (s : State) : (softReset s).rdata = s.rdata := rfl
@[simp] theorem softReset_draws (s : State) : (softReset s).draws = s.draws := rfl
@[simp] theorem softReset_hardResets (s : State) : (softReset s).hardResets = s.hardResets := rfl

/-! ### `hardReset` -/

@[simp] theorem hardReset_config (s : State) : (hardReset s).config = State.reset.config := rfl
@[simp] theorem hardReset_status (s : State) : (hardReset s).status = State.reset.status := rfl
@[simp] theorem hardReset_ecode (s : State) : (hardReset s).ecode = State.reset.ecode := rfl
@[simp] theorem hardReset_ien (s : State) : (hardReset s).ien = State.reset.ien := rfl
@[simp] theorem hardReset_cmd (s : State) : (hardReset s).cmd = State.reset.cmd := rfl
@[simp] theorem hardReset_len (s : State) : (hardReset s).len = State.reset.len := rfl
@[simp] theorem hardReset_nlen (s : State) : (hardReset s).nlen = State.reset.nlen := rfl
@[simp] theorem hardReset_olen (s : State) : (hardReset s).olen = State.reset.olen := rfl
@[simp] theorem hardReset_idx (s : State) : (hardReset s).idx = State.reset.idx := rfl
@[simp] theorem hardReset_rsym (s : State) : (hardReset s).rsym = State.reset.rsym := rfl
@[simp] theorem hardReset_rpos (s : State) : (hardReset s).rpos = State.reset.rpos := rfl
@[simp] theorem hardReset_key (s : State) : (hardReset s).key = State.reset.key := rfl
@[simp] theorem hardReset_grid (s : State) : (hardReset s).grid = State.reset.grid := rfl
@[simp] theorem hardReset_marker (s : State) : (hardReset s).marker = State.reset.marker := rfl
@[simp] theorem hardReset_find (s : State) : (hardReset s).find = State.reset.find := rfl
@[simp] theorem hardReset_ibuf (s : State) : (hardReset s).ibuf = State.reset.ibuf := rfl
@[simp] theorem hardReset_obuf (s : State) : (hardReset s).obuf = State.reset.obuf := rfl
@[simp] theorem hardReset_agenda (s : State) : (hardReset s).agenda = s.agenda := rfl
@[simp] theorem hardReset_rdata (s : State) : (hardReset s).rdata = s.rdata := rfl
@[simp] theorem hardReset_draws (s : State) : (hardReset s).draws = s.draws := rfl
@[simp] theorem hardReset_hardResets (s : State) : (hardReset s).hardResets = s.hardResets + 1 := rfl

/-! ### `completeStatus` -/

@[simp] theorem completeStatus_busy (err : Bool) (t : StatusReg) : (completeStatus err t).busy = false := rfl
@[simp] theorem completeStatus_done (err : Bool) (t : StatusReg) : (completeStatus err t).done = true := rfl
@[simp] theorem completeStatus_err (err : Bool) (t : StatusReg) : (completeStatus err t).err = err := rfl
@[simp] theorem completeStatus_fatal (err : Bool) (t : StatusReg) : (completeStatus err t).fatal = t.fatal := rfl
@[simp] theorem completeStatus_keyvalid (err : Bool) (t : StatusReg) : (completeStatus err t).keyvalid = t.keyvalid := rfl
@[simp] theorem completeStatus_gridvalid (err : Bool) (t : StatusReg) : (completeStatus err t).gridvalid = t.gridvalid := rfl
@[simp] theorem completeStatus_buserr (err : Bool) (t : StatusReg) : (completeStatus err t).buserr = t.buserr := rfl

/-! ### Buffer elements depend on the buffer and the reset count alone -/

theorem ibufAt_congr {s t : State} (h : t.ibuf = s.ibuf) (hr : t.hardResets = s.hardResets) (k : Nat) :
    ibufAt t k = ibufAt s k := by
  simp [ibufAt, h, hr]

theorem obufAt_congr {s t : State} (h : t.obuf = s.obuf) (hr : t.hardResets = s.hardResets) (k : Nat) :
    obufAt t k = obufAt s k := by
  simp [obufAt, h, hr]

theorem input_congr {s t : State} (h : t.ibuf = s.ibuf) (hr : t.hardResets = s.hardResets) (hl : t.len = s.len) :
    input t = input s := by
  simp [input, ibufAt_congr h hr, hl]

@[simp] theorem input_length (s : State) : (input s).length = s.len.toNat := by simp [input]

theorem mem_input {s : State} {v : Sym} : v ∈ input s ↔ ∃ k, k < s.len.toNat ∧ ibufAt s k = v := by simp [input]

theorem input_getElem (s : State) (k : Nat) (h : k < (input s).length) : (input s)[k] = ibufAt s k := by simp [input]

end Sys2Proof.Machine
end

