-- ==== Sys2Proof/Laws/Commands.lean ====
section
/-! SUPPORT. What the shared operations of the commands can answer, said once, and the inversion of `exec` (60_exceptions R220 to
R234). -/

namespace Sys2Proof.Machine

/-! ### Shared operations -/

/-- Everything `configured` answers (R224 check 2). -/
theorem configured_eq (s : State) (k : GridSize → State) :
    configured s k = .next (match s.config.size with
      | none => fail .notConfigured noFindings s
      | some sz => k sz) := by
  unfold configured
  cases s.config.size <;> rfl

theorem configured_some {s : State} {sz : GridSize} (h : s.config.size = some sz) (k : GridSize → State) :
    configured s k = .next (k sz) := by
  rw [configured_eq, h]

theorem configured_none {s : State} (h : s.config.size = none) (k : GridSize → State) :
    configured s k = .next (fail .notConfigured noFindings s) := by
  rw [configured_eq, h]

/-- If `configured` answers next `t`, the block was unconfigured and the command failed, or the command ran with its size. -/
theorem configured_cases {s t : State} {k : GridSize → State} (h : configured s k = .next t) :
    (s.config.size = none ∧ t = fail .notConfigured noFindings s) ∨ ∃ sz, s.config.size = some sz ∧ t = k sz := by
  cases hs : s.config.size with
  | none => rw [configured_none hs] at h; exact .inl ⟨rfl, by simpa using h.symm⟩
  | some sz => rw [configured_some hs] at h; exact .inr ⟨sz, rfl, by simpa using h.symm⟩

/-- A single step is fatal or stores its results (42_cipher_step R177, R178). -/
theorem applyStep_cases (f : Work → Sym → Option (Work × Sym)) (v : Sym) (s : State) :
    (f ⟨s.grid, s.marker⟩ v = none ∧ applyStep f v s = fatalInStep s) ∨
      ∃ W y, f ⟨s.grid, s.marker⟩ v = some (W, y) ∧
        applyStep f v s = succeed { s with grid := W.grid, marker := W.marker, rsym := y } := by
  rw [applyStep]
  cases h : f ⟨s.grid, s.marker⟩ v with
  | none => exact .inl ⟨rfl, rfl⟩
  | some r => exact .inr ⟨r.1, r.2, rfl, rfl⟩

/-- The working state a call starts from (41_key_derivation R152). -/
def freshWork (sz : GridSize) (s : State) : Work := ⟨storeCells sz.count (cell s.key) s.grid, ⟨0, 0⟩⟩

/-- A message command is fatal or stores its results (43_message_commands R191). -/
theorem runMessage_cases (sz : GridSize) (run : Work → Option (Work × List Sym)) (olen : Count) (s : State) :
    (run (freshWork sz s) = none ∧ runMessage sz run olen s = fatalInMessage s) ∨
      ∃ W out, run (freshWork sz s) = some (W, out) ∧
        runMessage sz run olen s = succeed { s with
          grid := W.grid, marker := W.marker, obuf := bufPutFrom s.obuf 0 out, olen := olen, idx := s.len
          status := { s.status with gridvalid := true } } := by
  rw [runMessage]
  simp only [freshWork, startCall_grid, startCall_marker]
  cases h : run ⟨storeCells sz.count (cell s.key) s.grid, ⟨0, 0⟩⟩ with
  | none => exact .inl ⟨rfl, rfl⟩
  | some r => exact .inr ⟨r.1, r.2, rfl, rfl⟩

/-! ### The inversion of `exec` -/

/-- The command is one of the four message commands. -/
def messageCommand : Instr → Bool
  | .enc => true
  | .dec => true
  | .encn => true
  | .decn => true
  | _ => false

/-- The command is a buffer command that is no message command. -/
def checkCommand : Instr → Bool
  | .keylit => true
  | .keydrv => true
  | .chkkey => true
  | .chkmsg _ => true
  | _ => false

/-- The command loads a key. -/
def keyCommand : Instr → Bool
  | .keylit => true
  | .keydrv => true
  | _ => false

/-- `s'` is `s` but for what some command writes before it succeeds; only a key command writes `KEY` and `KEYVALID`. -/
structure Wrote (i : Instr) (s s' : State) : Prop where
  config : s'.config = s.config
  ien : s'.ien = s.ien
  cmd : s'.cmd = s.cmd
  len : s'.len = s.len
  nlen : s'.nlen = s.nlen
  ibuf : s'.ibuf = s.ibuf
  agenda : s'.agenda = s.agenda
  rdata : s'.rdata = s.rdata
  draws : s'.draws = s.draws
  hardResets : s'.hardResets = s.hardResets
  fatal : s'.status.fatal = s.status.fatal
  buserr : s'.status.buserr = s.status.buserr
  key : keyCommand i = false → s'.key = s.key ∧ s'.status.keyvalid = s.status.keyvalid

theorem Wrote.refl (i : Instr) (s : State) : Wrote i s s := ⟨rfl, rfl, rfl, rfl, rfl, rfl, rfl, rfl, rfl, rfl, rfl, rfl, fun _ => ⟨rfl, rfl⟩⟩

/-- The ways a command can end. -/
inductive Ending (i : Instr) (s : State) : State → Prop where
  /-- An early check failed (R224 checks 1 to 5), or the operand of a step did (check 6). -/
  | failed (e : CmdError) (f : Findings) : Ending i s (fail e f s)
  /-- The input validation of a key or check command failed. -/
  | badKeyInput (e : CmdError) (f : Findings) (h : checkCommand i = true) : Ending i s (failKeyInput e f s)
  /-- The input validation of a message command failed. -/
  | badMessageInput (e : CmdError) (bad : SymSet) (h : messageCommand i = true) : Ending i s (failMessageInput e bad s)
  /-- POSOF of an absent symbol. -/
  | fatal : Ending i s (fatal s)
  /-- A step whose search failed. -/
  | fatalInStep : Ending i s (fatalInStep s)
  /-- A message whose search failed. -/
  | fatalInMessage : Ending i s (fatalInMessage s)
  /-- Success. -/
  | success (s' : State) (h : Wrote i s s') : Ending i s (succeed s')

theorem Ending.ofApplyStep (i : Instr) (f : Work → Sym → Option (Work × Sym)) (v : Sym) (s : State) : Ending i s (applyStep f v s) := by
  rcases applyStep_cases f v s with ⟨_, h⟩ | ⟨W, y, _, h⟩ <;> rw [h]
  · exact .fatalInStep
  · exact .success _ ⟨rfl, rfl, rfl, rfl, rfl, rfl, rfl, rfl, rfl, rfl, rfl, rfl, fun _ => ⟨rfl, rfl⟩⟩

theorem Ending.ofRunMessage (i : Instr) (sz : GridSize) (run : Work → Option (Work × List Sym)) (olen : Count) (s : State) :
    Ending i s (runMessage sz run olen s) := by
  rcases runMessage_cases sz run olen s with ⟨_, h⟩ | ⟨W, y, _, h⟩ <;> rw [h]
  · exact .fatalInMessage
  · exact .success _ ⟨rfl, rfl, rfl, rfl, rfl, rfl, rfl, rfl, rfl, rfl, rfl, rfl, fun _ => ⟨rfl, rfl⟩⟩

/-- Every command ends in one of those ways. -/
theorem exec_ending {i : Instr} {s t : State} (h : exec i s = .next t) : Ending i s t := by
  cases i <;> simp only [exec, execInit, execKeylit, execKeydrv, execChkkey, execChkmsg, execSymat, execPosof, execRotr, execRotc,
      execMkadv, execEnc1, execDec1, execEnc, execDec, execEncn, execDecn] at h <;>
    rcases configured_cases h with ⟨_, rfl⟩ | ⟨sz, _, rfl⟩ <;> first | exact .failed _ _ | skip
  all_goals (repeat' split)
  all_goals first
    | exact .failed _ _
    | exact .badKeyInput _ _ rfl
    | exact .badMessageInput _ _ rfl
    | exact .fatal
    | exact .ofApplyStep _ _ _ _
    | exact .ofRunMessage _ _ _ _ _
    | exact .success _ ⟨rfl, rfl, rfl, rfl, rfl, rfl, rfl, rfl, rfl, rfl, rfl, rfl, fun _ => ⟨rfl, rfl⟩⟩
    | exact .success _ ⟨rfl, rfl, rfl, rfl, rfl, rfl, rfl, rfl, rfl, rfl, rfl, rfl, fun h => by cases h⟩

end Sys2Proof.Machine
end

