-- ==== Sys2Proof/Laws/Encoding.lean ====
section
/-! SUPPORT. The fields of a packed word, and a word as the pack of its fields (30_encoding R91). -/

namespace Sys2Proof

theorem getLsbD_packWord (opc : BitVec 8) (m : Bool) (a b : BitVec 8) (i : Nat) :
    (packWord opc m a b).getLsbD i =
      if i < 8 then b.getLsbD i
      else if i < 16 then a.getLsbD (i - 8)
      else if i < 17 then m
      else if i < 24 then false
      else opc.getLsbD (i - 24) := by
  simp only [packWord, BitVec.getLsbD_append, BitVec.getLsbD_ofBool, BitVec.getLsbD_zero]
  by_cases h0 : i < 8
  · simp [h0]
  by_cases h1 : i < 16
  · simp [h0, h1, show i - 8 < 8 by omega]
  by_cases h2 : i < 17
  · have : i = 16 := by omega
    subst this; simp
  by_cases h3 : i < 24
  · simp [h0, h1, h2, h3, show ¬ i - 8 < 8 by omega, show ¬ i - 8 - 8 < 1 by omega, show i - 8 - 8 - 1 < 7 by omega]
  · simp only [h0, h1, h2, h3, show ¬ i - 8 < 8 by omega, show ¬ i - 8 - 8 < 1 by omega, show ¬ i - 8 - 8 - 1 < 7 by omega, if_false]
    congr 1

@[simp] theorem fieldOpc_packWord (opc : BitVec 8) (m : Bool) (a b : BitVec 8) : fieldOpc (packWord opc m a b) = opc := by
  apply BitVec.eq_of_getLsbD_eq
  intro i hi
  rw [fieldOpc, BitVec.getLsbD_extractLsb', getLsbD_packWord, if_neg (by omega), if_neg (by omega), if_neg (by omega),
    if_neg (by omega)]
  simp [hi, show 24 + i - 24 = i by omega]

@[simp] theorem fieldZ1_packWord (opc : BitVec 8) (m : Bool) (a b : BitVec 8) : fieldZ1 (packWord opc m a b) = 0 := by
  apply BitVec.eq_of_getLsbD_eq
  intro i hi
  rw [fieldZ1, BitVec.getLsbD_extractLsb', getLsbD_packWord, if_neg (by omega), if_neg (by omega), if_neg (by omega),
    if_pos (by omega)]
  simp

@[simp] theorem fieldM_packWord (opc : BitVec 8) (m : Bool) (a b : BitVec 8) : fieldM (packWord opc m a b) = m := by
  rw [fieldM, getLsbD_packWord, if_neg (by omega), if_neg (by omega), if_pos (by omega)]

@[simp] theorem fieldA_packWord (opc : BitVec 8) (m : Bool) (a b : BitVec 8) : fieldA (packWord opc m a b) = a := by
  apply BitVec.eq_of_getLsbD_eq
  intro i hi
  rw [fieldA, BitVec.getLsbD_extractLsb', getLsbD_packWord, if_neg (by omega), if_pos (by omega)]
  simp [hi, show 8 + i - 8 = i by omega]

@[simp] theorem fieldB_packWord (opc : BitVec 8) (m : Bool) (a b : BitVec 8) : fieldB (packWord opc m a b) = b := by
  apply BitVec.eq_of_getLsbD_eq
  intro i hi
  rw [fieldB, BitVec.getLsbD_extractLsb', getLsbD_packWord, if_pos (by omega)]
  simp [hi]

/-- A word with `Z1 = 0` is the pack of its fields: no bit lies outside them. -/
theorem packWord_fields (w : Word) (h : fieldZ1 w = 0) : packWord (fieldOpc w) (fieldM w) (fieldA w) (fieldB w) = w := by
  apply BitVec.eq_of_getLsbD_eq
  intro i hi
  rw [getLsbD_packWord]
  have hz : ∀ j, j < 7 → w.getLsbD (17 + j) = false := by
    intro j hj
    have := congrArg (fun x : BitVec 7 => x.getLsbD j) h
    simpa [fieldZ1, hj] using this
  split
  · rw [fieldB, BitVec.getLsbD_extractLsb']; simp [*]
  split
  · rw [fieldA, BitVec.getLsbD_extractLsb', show 8 + (i - 8) = i by omega, show decide (i - 8 < 8) = true by simp; omega]
    simp
  split
  · have : i = 16 := by omega
    subst this; rfl
  split
  · have := hz (i - 17) (by omega)
    rw [show 17 + (i - 17) = i by omega] at this
    exact this.symm
  · rw [fieldOpc, BitVec.getLsbD_extractLsb', show 24 + (i - 24) = i by omega, show decide (i - 24 < 8) = true by simp; omega]
    simp

/-- The low bits of a byte under zeros. -/
theorem extract_low_append {n m : Nat} (z : BitVec m) (v : BitVec n) : (z ++ v).extractLsb' 0 n = v := by
  apply BitVec.eq_of_getLsbD_eq
  intro i hi
  rw [BitVec.getLsbD_extractLsb', BitVec.getLsbD_append]
  simp [hi]

/-- The zeros above the low bits of a byte. -/
theorem extract_high_append {n m : Nat} (z : BitVec m) (v : BitVec n) : (z ++ v).extractLsb' n m = z := by
  apply BitVec.eq_of_getLsbD_eq
  intro i hi
  rw [BitVec.getLsbD_extractLsb', BitVec.getLsbD_append]
  simp [hi]

/-- `sext_8` undoes the encoding of an amount that 8 bits hold (R93, R98). -/
theorem sext8_ofInt {n : Int} (h : amountEncodable n = true) : sext8 (BitVec.ofInt 8 n) = n := by
  simp only [amountEncodable, Bool.and_eq_true, decide_eq_true_eq] at h
  simp only [sext8, BitVec.toNat_ofInt]
  split <;> omega

/-- Every byte is the encoding of its `sext_8`. -/
theorem ofInt_sext8 (v : BitVec 8) : BitVec.ofInt 8 (sext8 v) = v := by
  apply BitVec.eq_of_toNat_eq
  have := v.isLt
  simp only [sext8, BitVec.toNat_ofInt]
  split <;> omega

theorem amountEncodable_sext8 (v : BitVec 8) : amountEncodable (sext8 v) = true := by
  have := v.isLt
  simp only [amountEncodable, sext8]
  split <;> simp <;> omega

end Sys2Proof
end

