-- ==== Sys2Proof/Laws/HostPort.lean ====
section
/-! SUPPORT. What the host's accesses, the engine's turn and the step can answer, said once (20_memory R62, R63, 60_exceptions R222). -/

namespace Sys2Proof.Machine

/-! ### The step -/

/-- The next event of the agenda happens. -/
theorem step_cons {s : State} {e : Event} {rest : List Event} (h : s.agenda = e :: rest) :
    step s = handle e { s with agenda := rest } := by
  rw [step, h]

/-- With nothing on the agenda the engine has its turn. -/
theorem step_nil {s : State} (h : s.agenda = []) : step s = engineTurn s := by
  rw [step, h]

theorem engineTurn_busy {s : State} (h : s.status.busy = true) : engineTurn s = complete s := if_pos h

theorem engineTurn_idle {s : State} (h : s.status.busy = false) : engineTurn s = .next s := by
  rw [engineTurn, h, if_neg (by decide)]

theorem complete_ok {s : State} {i : Instr} (h : decode s.cmd = .ok i) : complete s = exec i s := by
  rw [complete, h]

theorem complete_error {s : State} {r : IllegalWord} (h : decode s.cmd = .error r) :
    complete s = .next (fail .illegalCommand noFindings s) := by
  rw [complete, h]

/-- Everything a completion can answer: the word is illegal and the command failed, or it is a command and ended its way. -/
theorem complete_cases {s t : State} (h : complete s = .next t) :
    ((∃ r, decode s.cmd = .error r) ∧ t = fail .illegalCommand noFindings s) ∨
      ∃ i, decode s.cmd = .ok i ∧ exec i s = .next t := by
  cases hd : decode s.cmd with
  | error r => rw [complete_error hd] at h; exact .inl ⟨⟨r, rfl⟩, by simpa using h.symm⟩
  | ok i => rw [complete_ok hd] at h; exact .inr ⟨i, rfl, h⟩

/-- The step of a state that `withFetchWord` gives is the completion of that command. -/
theorem step_withFetchWord (s : State) (nbits w : Nat) :
    step (s.withFetchWord nbits w) = complete (accept (tableWord nbits w) s) := by
  rw [State.withFetchWord, withCommand]
  cases h : s.agenda with
  | nil => exact (step_nil rfl).trans ((engineTurn_busy rfl).trans (by rw [engineFirst, ← h]))
  | cons e rest => exact (step_cons (e := .engine) (rest := e :: rest) rfl).trans ((engineTurn_busy rfl).trans (by rw [← h]; rfl))

/-! ### Runs -/

theorem run_zero (s : State) : core.run 0 s = .next s := rfl

/-- A run goes on from the state its first step gives. -/
theorem run_succ {s t : State} (k : Nat) (h : step s = .next t) : core.run (k + 1) s = core.run k t := by
  have e : core.step s = .next t := h
  refine (Host.Core.run.eq_def core (k + 1) s).trans ?_
  simp only []
  rw [e]

/-- A run of one step. -/
theorem run_one (s : State) : core.run 1 s = step s := by
  refine (Host.Core.run.eq_def core 1 s).trans ?_
  show _ = core.step s
  simp only []
  cases core.step s <;> rfl

/-- A run and then one more step. -/
theorem run_then {s t : State} {k : Nat} (h : core.run k s = .next t) : core.run (k + 1) s = step t := by
  induction k generalizing s with
  | zero =>
    have e : s = t := by injection h
    subst e
    exact run_one s
  | succ k ih =>
    have h' := (Host.Core.run.eq_def core (k + 1) s).symm.trans h
    refine (Host.Core.run.eq_def core (k + 1 + 1) s).trans ?_
    simp only [] at h' ⊢
    cases hs : core.step s with
    | next u => rw [hs] at h'; exact ih h'
    | fault r => cases r
    | refused r => rw [hs] at h'; cases h'

/-! ### Reads -/

/-- Everything a read can do. -/
theorem busRead_cases (a : Addr) (s : State) :
    (mapped a = none ∧ busRead a s = refuse { s with rdata := 0 }) ∨
      (∃ r, mapped a = some r ∧ s.status.busy = true ∧ readableWhileBusy r = false ∧
        busRead a s = { s with rdata := Config.busyRead s.draws, draws := s.draws + 1 }) ∨
      ∃ r, mapped a = some r ∧ (s.status.busy = false ∨ readableWhileBusy r = true) ∧
        busRead a s = { s with rdata := readReg s r } := by
  rw [busRead]
  cases hm : mapped a with
  | none => exact .inl ⟨rfl, rfl⟩
  | some r =>
    simp only
    split
    · rename_i h; exact .inr (.inl ⟨r, rfl, h.1, h.2, rfl⟩)
    · rename_i h
      refine .inr (.inr ⟨r, rfl, ?_, rfl⟩)
      revert h
      cases s.status.busy <;> cases readableWhileBusy r <;> simp

/-! ### Writes -/

/-- The ways a write to a mapped address can end while the engine is idle. -/
inductive WriteEnding (r : Reg) (s : State) : State → Prop where
  /-- Refused. -/
  | refused : WriteEnding r s (refuse s)
  /-- `CTRL` with 0. -/
  | nothing : WriteEnding r s s
  /-- `CTRL` with 1. -/
  | reset : WriteEnding r s (softReset s)
  /-- A legal `CONFIG` word. -/
  | config (c : ConfigReg) (w : Word) (h : configOfWord w = some c) : WriteEnding r s (writeConfig c s)
  /-- `STATUS`. -/
  | status (w : Word) : WriteEnding r s (writeStatus w s)
  /-- A legal `IEN` word. -/
  | ien (e : IenReg) : WriteEnding r s { s with ien := e }
  /-- `CMD` while not fatal. -/
  | accepted (w : Word) (h : s.status.fatal = false) : WriteEnding r s (accept w s)
  /-- A legal length. -/
  | len (w : Word) (h : w.toNat ≤ Config.bufDepth) : WriteEnding r s { s with len := BitVec.ofNat 13 w.toNat }
  /-- A legal nonce length. -/
  | nlen (w : Word) (h : w.toNat ≤ Config.bufDepth) : WriteEnding r s { s with nlen := BitVec.ofNat 13 w.toNat }
  /-- A code to an element of `IBUF`. -/
  | ibuf (k : Nat) (w : Word) (h : w.toNat ≤ 63) (e : r = .ibuf k) :
    WriteEnding r s { s with ibuf := bufPut s.ibuf k (BitVec.ofNat 6 w.toNat) }

/-- Every write to a mapped address ends in one of those ways. -/
theorem writeReg_ending (w : Word) (s : State) (r : Reg) : WriteEnding r s (writeReg w s r) := by
  cases r <;> simp only [writeReg, writeCtrl, writeIen, writeCmd] <;> (repeat' split) <;>
    first
      | exact .refused
      | exact .nothing
      | exact .reset
      | exact .status _
      | exact .ien _
      | exact .config _ _ (by assumption)
      | exact .accepted _ (by simpa using ‹¬ s.status.fatal = true›)
      | exact .len _ ((Config.fits_iff _).1 (by assumption))
      | exact .nlen _ ((Config.fits_iff _).1 (by assumption))
      | exact .ibuf _ _ (by assumption) rfl

/-- Everything a write can do. -/
theorem busWrite_cases (a : Addr) (w : Word) (s : State) :
    (s.status.busy = true ∧ busWrite a w s = refuse s) ∨
      (s.status.busy = false ∧ mapped a = none ∧ busWrite a w s = refuse s) ∨
      ∃ r, s.status.busy = false ∧ mapped a = some r ∧ busWrite a w s = writeReg w s r := by
  cases hb : s.status.busy with
  | true => exact .inl ⟨rfl, by simp only [busWrite, hb, if_true]⟩
  | false =>
    cases hm : mapped a with
    | none => exact .inr (.inl ⟨rfl, rfl, by simp only [busWrite, hb, hm]; simp⟩)
    | some r => exact .inr (.inr ⟨r, rfl, rfl, by simp only [busWrite, hb, hm]; simp⟩)

/-! ### The map -/

/-- The element a buffer address names lies below `BUF_DEPTH` (20_memory R64). -/
theorem mapped_ibuf {a : Addr} {k : Nat} (h : mapped a = some (.ibuf k)) : k < Config.bufDepth ∧ a.toNat = 0x1000 + k := by
  simp only [mapped] at h
  split at h
  · revert h; unfold lowReg; split <;> simp
  split at h
  · cases h
  split at h
  · cases h
  split at h
  · cases h
  split at h
  · split at h
    · rename_i h1
      have := (Config.fits_iff _).1 h1
      simp only [Option.some.injEq, Reg.ibuf.injEq] at h
      omega
    · cases h
  split at h
  · split at h <;> cases h
  · cases h

end Sys2Proof.Machine
end

