-- ==== Sys2Proof/Laws/PerInstr.lean ====
section
/-! SUPPORT. Statements made once per command of the opcode map. `RowMatch`: the word of a command satisfies the `match` and `mask` of
its row (30_encoding R94). -/

namespace Sys2Proof.Laws

/-- The command's word passes its row's test, whatever its operands. -/
@[reducible] def RowMatch.Statement (i : Instr) : Prop := (opcodeRow i).accepts (encode i) = true

theorem RowMatch.init : RowMatch.Statement .init := by decide

theorem RowMatch.keylit : RowMatch.Statement .keylit := by decide

theorem RowMatch.keydrv : RowMatch.Statement .keydrv := by decide

theorem RowMatch.chkkey : RowMatch.Statement .chkkey := by decide

theorem RowMatch.chkmsg (kind : BitVec 2) : RowMatch.Statement (.chkmsg kind) := by revert kind; decide

theorem RowMatch.symat (row col : BitVec 3) : RowMatch.Statement (.symat row col) := by revert row col; decide

theorem RowMatch.posof (s : Sym) : RowMatch.Statement (.posof s) := by revert s; decide

/-- A byte in `B` is outside the mask of format R, so its value does not matter. -/
theorem packWord_and_maskR (opc : BitVec 8) (m : Bool) (a b : BitVec 8) :
    packWord opc m a b &&& 0xFFFEF800 = packWord opc false (a &&& 0xF8) 0 := by
  apply BitVec.eq_of_getLsbD_eq
  intro i hi
  rw [BitVec.getLsbD_and, getLsbD_packWord, getLsbD_packWord]
  by_cases h0 : i < 8
  · have : (0xFFFEF800 : Word).getLsbD i = false := by revert h0; revert i; decide
    rw [this, if_pos h0, if_pos h0]; simp
  by_cases h1 : i < 16
  · have : (0xFFFEF800 : Word).getLsbD i = (0xF8 : BitVec 8).getLsbD (i - 8) := by revert h0 h1; revert i; decide
    simp only [h0, h1, if_false, if_true, BitVec.getLsbD_and, this]
  by_cases h2 : i < 17
  · have : i = 16 := by omega
    subst this; simp
  have : (0xFFFEF800 : Word).getLsbD i = true := by revert h2; revert i; decide
  simp only [h0, h1, h2, if_false, this, Bool.and_true]

theorem RowMatch.rotr (m : Bool) (line : BitVec 3) (n : Int) : RowMatch.Statement (.rotr m line n) := by
  simp only [RowMatch.Statement, OpcodeRow.accepts, opcodeRow, encode, packWord_and_maskR]
  revert line; decide

theorem RowMatch.rotc (m : Bool) (line : BitVec 3) (n : Int) : RowMatch.Statement (.rotc m line n) := by
  simp only [RowMatch.Statement, OpcodeRow.accepts, opcodeRow, encode, packWord_and_maskR]
  revert line; decide

theorem RowMatch.mkadv (s : Sym) : RowMatch.Statement (.mkadv s) := by revert s; decide

theorem RowMatch.enc1 (s : Sym) : RowMatch.Statement (.enc1 s) := by revert s; decide

theorem RowMatch.dec1 (s : Sym) : RowMatch.Statement (.dec1 s) := by revert s; decide

theorem RowMatch.enc : RowMatch.Statement .enc := by decide

theorem RowMatch.dec : RowMatch.Statement .dec := by decide

theorem RowMatch.encn : RowMatch.Statement .encn := by decide

theorem RowMatch.decn : RowMatch.Statement .decn := by decide

end Sys2Proof.Laws
end

