-- ==== Sys2Proof/Machine/Listing.lean ====
section
/-! DEFINITION. The assembler syntax of the spec's listings and its two pseudo-commands (30_encoding R98, R99). It belongs to the
listings, not to the block. -/

namespace Sys2Proof.Machine

/-- ROTL `line, n` and ROTL.M: rotate a row toward lower columns (R99). -/
def rotl (m : Bool) (line : BitVec 3) (n : Int) : Instr := .rotr m line (-n)

/-- ROTU `line, n` and ROTU.M: rotate a column toward lower rows (R99). -/
def rotu (m : Bool) (line : BitVec 3) (n : Int) : Instr := .rotc m line (-n)

/-- The amounts a pseudo-command may be written with (R99). -/
def pseudoAmountLegal (n : Int) : Bool := decide (-127 ≤ n) && decide (n ≤ 127)

/-- The name of a CHKMSG kind, or its number (R98). -/
def kindName (kind : BitVec 2) : String :=
  if kind = 0 then "NONCE" else if kind = 1 then "PLAIN" else if kind = 2 then "CIPHER" else "3"

/-- The suffix that shows the marker flag (R98). -/
def markerSuffix (m : Bool) : String := if m then ".M" else ""

/-- Two operands in the order of R92, separated by a comma (R98). -/
def operandPair (a b : String) : String := " " ++ a ++ ", " ++ b

/-- A command as a line of a listing (R98): the mnemonic in capitals, then the operands in decimal. -/
def listing : Instr → String
  | .init => "INIT"
  | .keylit => "KEYLIT"
  | .keydrv => "KEYDRV"
  | .chkkey => "CHKKEY"
  | .chkmsg kind => "CHKMSG " ++ kindName kind
  | .symat row col => "SYMAT" ++ operandPair (toString row.toNat) (toString col.toNat)
  | .posof s => "POSOF " ++ toString s.toNat
  | .rotr m line n => "ROTR" ++ markerSuffix m ++ operandPair (toString line.toNat) (toString n)
  | .rotc m line n => "ROTC" ++ markerSuffix m ++ operandPair (toString line.toNat) (toString n)
  | .mkadv s => "MKADV " ++ toString s.toNat
  | .enc1 s => "ENC1 " ++ toString s.toNat
  | .dec1 s => "DEC1 " ++ toString s.toNat
  | .enc => "ENC"
  | .dec => "DEC"
  | .encn => "ENCN"
  | .decn => "DECN"

end Sys2Proof.Machine
end

