-- ==== Sys2Proof/Tests/Slice0.lean ====
section
/-! SUPPORT. The model's own tests. Expected values are the spec's: the encodings of 30_encoding R98, the vectors of 95_test_vectors
(named at each test). Then a witness for the hypotheses of every claim that has some. -/

namespace Sys2Proof.Tests

open Sys2Proof.Machine Sys2Proof.Claims

/-! ### Helpers -/

/-- Buffer elements from 0 on. -/
def listed (codes : List Nat) : Memory := codes.zipIdx.map fun c => (c.2, BitVec.ofNat 6 c.1)

/-- A grid by its codes. -/
def gridOf (codes : List Nat) : Grid := tabulate fun k => BitVec.ofNat 6 (codes.getD k 0)

/-- The key K3 of 95_test_vectors, as codes. -/
def k3 : List Nat :=
  [12, 3, 26, 15, 14, 17, 9, 10, 32, 30, 34, 11, 24, 13, 4, 27, 0, 5] ++
    [21, 22, 23, 33, 7, 6, 28, 29, 2, 25, 16, 1, 31, 20, 18, 19, 35, 8]

/-- The grid after one encryption step of 17 on K3 (95_test_vectors S1). -/
def k3Next : List Nat :=
  [17, 12, 3, 26, 15, 8, 9, 10, 32, 30, 34, 14, 24, 13, 4, 27, 0, 11] ++
    [21, 22, 23, 33, 7, 5, 28, 29, 2, 25, 16, 6, 31, 20, 18, 19, 35, 1]

/-- A block of the size 6 with a key, a fresh working state and an input. -/
def block (mmode : MarkerMode) (nmode : NonceMode) (key inp : List Nat) : State :=
  { State.reset with
    config := ⟨some .six, mmode, nmode⟩
    status := { State.reset.status with keyvalid := true, gridvalid := true }
    key := gridOf key, grid := gridOf key, ibuf := listed inp, len := BitVec.ofNat 13 inp.length }

/-- The block with the key K3, co-rotating, Mode A. -/
def kb (inp : List Nat) : State := block .coRotating .modeA k3 inp

/-- The same with the identity key. -/
def ib (inp : List Nat) : State := block .coRotating .modeA (List.range 36) inp

/-- The next state, if there is one. -/
def after (r : StepResult) (s : State) : State :=
  match r with
  | .next t => t
  | _ => s

/-- The first `OLEN` elements of `OBUF`. -/
def outOf (t : State) : List Nat := (List.range t.olen.toNat).map fun k => (obufAt t k).toNat

theorem exec_after (i : Instr) (s : State) : exec i s = .next (after (exec i s) s) := by
  cases i <;> simp only [exec, execInit, execKeylit, execKeydrv, execChkkey, execChkmsg, execSymat, execPosof, execRotr, execRotc,
      execMkadv, execEnc1, execDec1, execEnc, execDec, execEncn, execDecn, configured_eq, after]

/-- The engine's turn on a busy block. -/
theorem step_after (s : State) (h : s.status.busy = true) :
    step (facing s .engine []) = .next (after (complete { s with agenda := [] }) s) := by
  have e : step (facing s .engine []) = complete { s with agenda := [] } := engineTurn_busy (s := { s with agenda := [] }) h
  rw [e, complete]
  cases decode s.cmd with
  | ok i => simp only []; rw [exec_after i]; rfl
  | error r => rfl

theorem clean_of_all {sz : GridSize} {s : State} {lo hi : Nat} (h : ∀ k, k < hi → (ibufAt s k).toNat < sz.count) :
    clean sz s lo hi := fun k _ hk => h k hk

theorem not_clean_of {sz : GridSize} {s : State} {lo hi : Nat} (k : Nat) (h : lo ≤ k ∧ k < hi ∧ ¬ (ibufAt s k).toNat < sz.count) :
    ¬ clean sz s lo hi := fun hc => h.2.2 (hc k h.1 h.2.1)

theorem k3_valid : gridValid .six (gridOf k3) := by decide +kernel

theorem identity_valid : gridValid .six (gridOf (List.range 36)) := by decide +kernel

/-! ### WellFormed: an ill-formed term for each check -/

theorem test_rotr_128_is_refused : (Instr.rotr false 0 128).wellFormed = false := by decide
theorem test_rotr_minus_129_is_refused : (Instr.rotr true 1 (-129)).wellFormed = false := by decide
theorem test_rotc_128_is_refused : (Instr.rotc false 0 128).wellFormed = false := by decide
theorem test_rotc_minus_129_is_refused : (Instr.rotc true 1 (-129)).wellFormed = false := by decide
theorem test_rotr_bounds_are_kept : (Instr.rotr false 7 127).wellFormed = true ∧ (Instr.rotr true 0 (-128)).wellFormed = true := by decide

/-! ### Decode: the words of 95_test_vectors E5, E4 -/

theorem test_decode_init : decode 0x01000000 = .ok .init := by decide
theorem test_decode_keylit : decode 0x02000000 = .ok .keylit := by decide
theorem test_decode_keydrv : decode 0x03000000 = .ok .keydrv := by decide
theorem test_decode_chkkey : decode 0x04000000 = .ok .chkkey := by decide
theorem test_decode_chkmsg : decode 0x05000001 = .ok (.chkmsg 1) := by decide
theorem test_decode_symat : decode 0x10000504 = .ok (.symat 5 4) := by decide
theorem test_decode_posof : decode 0x11000023 = .ok (.posof 35) := by decide
theorem test_decode_rotr : decode 0x120003FE = .ok (.rotr false 3 (-2)) := by decide
theorem test_decode_rotr_m : decode 0x12010302 = .ok (.rotr true 3 2) := by decide
theorem test_decode_rotc : decode 0x13000601 = .ok (.rotc false 6 1) := by decide
theorem test_decode_rotc_m : decode 0x13010080 = .ok (.rotc true 0 (-128)) := by decide
theorem test_decode_mkadv : decode 0x14000030 = .ok (.mkadv 48) := by decide
theorem test_decode_enc1 : decode 0x2000000A = .ok (.enc1 10) := by decide
theorem test_decode_dec1 : decode 0x2100000A = .ok (.dec1 10) := by decide
theorem test_decode_enc : decode 0x30000000 = .ok .enc := by decide
theorem test_decode_dec : decode 0x31000000 = .ok .dec := by decide
theorem test_decode_encn : decode 0x32000000 = .ok .encn := by decide
theorem test_decode_decn : decode 0x33000000 = .ok .decn := by decide
theorem test_decode_unknown_opcode : decode 0x00000000 = .error .unknownOpcode ∧ decode 0xFF000000 = .error .unknownOpcode := by decide
theorem test_decode_bit_17 : decode 0x12020001 = .error .reservedBits := by decide
theorem test_decode_format_bits :
    decode 0x30000001 = .error .formatBits ∧ decode 0x10000803 = .error .formatBits ∧ decode 0x20000040 = .error .formatBits ∧
      decode 0x05000004 = .error .formatBits ∧ decode 0x01010000 = .error .formatBits := by decide
theorem test_encode_words :
    encode (.rotr false 3 (-2)) = 0x120003FE ∧ encode (.rotc true 0 (-128)) = 0x13010080 ∧ encode (.symat 5 4) = 0x10000504 ∧
      encode (.chkmsg 1) = 0x05000001 ∧ encode (.mkadv 48) = 0x14000030 := by decide
theorem test_table_word : decodeTableWord 32 0x12010302 = some (.rotr true 3 2) ∧ decodeTableWord 32 0x30000001 = none := by decide

/-! ### One step each -/

/-- P3: INIT after a step. -/
theorem test_init :
    let t := after (exec .init { kb [] with grid := gridOf k3Next, marker := ⟨3, 2⟩ }) State.reset
    t.grid = gridOf k3 ∧ t.marker = ⟨0, 0⟩ ∧ t.status.gridvalid = true := by decide +kernel

/-- P1: KEYLIT of the identity. -/
theorem test_keylit :
    let t := after (exec .keylit (kb (List.range 36))) State.reset
    t.key = gridOf (List.range 36) ∧ t.grid = gridOf (List.range 36) ∧ t.idx = 36 ∧ t.ecode = 0 := by decide +kernel

/-- V1: all three findings in one error. -/
theorem test_keylit_bad :
    let t := after (exec .keylit (kb ([0, 1, 2, 3, 4, 63] ++ (List.range' 6 30) ++ [7]))) State.reset
    t.ecode = 0x701 ∧ t.find = ⟨0x8000000000000000, 0x20, 0x80⟩ ∧ t.idx = 0 ∧ t.key = gridOf k3 := by decide +kernel

/-- K3: `s3cret`. -/
theorem test_keydrv : (after (exec .keydrv (ib [28, 3, 12, 27, 14, 29])) State.reset).key = gridOf k3 := by decide +kernel

/-- K7: a keyword with a code outside the alphabet. -/
theorem test_keydrv_bad :
    let t := after (exec .keydrv (kb [36])) State.reset
    t.ecode = 0x106 ∧ t.find = ⟨0x0000001000000000, 0, 0⟩ ∧ t.key = gridOf k3 := by decide +kernel

/-- V2: the first 35 codes of the identity. -/
theorem test_chkkey : (after (exec .chkkey (ib (List.range 35))) State.reset).ecode = 0x201 := by decide +kernel

/-- E1. -/
theorem test_chkmsg :
    let t := after (exec (.chkmsg 1) (ib [10, 36, 10, 63, 36])) State.reset
    t.ecode = 0x103 ∧ t.find.ill = 0x8000001000000000 ∧ t.idx = 0 := by decide +kernel

/-- E1: the kind 3. -/
theorem test_chkmsg_kind_3 : (after (exec (.chkmsg 3) (ib [10])) State.reset).ecode = 0x11 := by decide

/-- O7. -/
theorem test_symat : (after (exec (.symat 2 5) (kb [])) State.reset).rsym = 5 := by decide

/-- O7. -/
theorem test_posof : (after (exec (.posof 17) (kb [])) State.reset).rpos = ⟨0, 5⟩ := by decide

/-- O8: a symbol that no cell holds. -/
theorem test_posof_fatal :
    let t := after (exec (.posof 40) (kb [])) State.reset
    t.ecode = 0x05 ∧ t.status.fatal = true ∧ t.status.gridvalid = true := by decide

/-- O3, O6. -/
theorem test_rotr :
    let t := after (exec (.rotr true 1 (-128)) { ib [] with marker := ⟨1, 5⟩ }) State.reset
    (List.range' 6 6).map (fun k => (cell t.grid k).toNat) = [8, 9, 10, 11, 6, 7] ∧ t.marker = ⟨1, 3⟩ := by decide +kernel

/-- O8: a line outside the grid. -/
theorem test_rotr_bad_line : (after (exec (.rotr false 6 1) (ib [])) State.reset).ecode = 0x11 := by decide

/-- O4, O6. -/
theorem test_rotc :
    let t := after (exec (.rotc true 2 1) { ib [] with marker := ⟨5, 2⟩ }) State.reset
    ([2, 8, 14, 20, 26, 32].map fun k => (cell t.grid k).toNat) = [32, 2, 8, 14, 20, 26] ∧ t.marker = ⟨0, 2⟩ := by decide +kernel

/-- O1: `padd((5, 3), (2, 4)) = (1, 1)`, `ix(16) = (2, 4)`. -/
theorem test_mkadv : (after (exec (.mkadv 16) { kb [] with marker := ⟨5, 3⟩ }) State.reset).marker = ⟨1, 1⟩ := by decide

/-- S1. -/
theorem test_enc1 :
    let t := after (exec (.enc1 17) (kb [])) State.reset
    t.rsym = 5 ∧ t.grid = gridOf k3Next ∧ t.marker = ⟨0, 0⟩ := by decide +kernel

/-- S2: the stationary marker. -/
theorem test_enc1_stationary : (after (exec (.enc1 17) (block .stationary .modeA k3 [])) State.reset).marker = ⟨0, 5⟩ := by decide +kernel

/-- S1. -/
theorem test_dec1 :
    let t := after (exec (.dec1 5) (kb [])) State.reset
    t.rsym = 17 ∧ t.grid = gridOf k3Next := by decide +kernel

/-- S5. -/
theorem test_dec1_bad :
    let t := after (exec (.dec1 63) (kb [])) State.reset
    t.ecode = 0x104 ∧ t.find.ill = 0x8000000000000000 := by decide +kernel

/-- W3: `hello_`. -/
theorem test_enc :
    let t := after (exec .enc (kb [17, 14, 21, 21, 24, 1])) State.reset
    outOf t = [5, 7, 25, 12, 27, 31] ∧ t.marker = ⟨4, 1⟩ ∧ t.idx = 6 := by decide +kernel

/-- W11: the empty message. -/
theorem test_enc_empty :
    let t := after (exec .enc { kb [] with marker := ⟨3, 3⟩, olen := 7 }) State.reset
    t.olen = 0 ∧ t.marker = ⟨0, 0⟩ ∧ t.grid = gridOf k3 ∧ t.ecode = 0 := by decide +kernel

/-- W3, read back. -/
theorem test_dec :
    let t := after (exec .dec (kb [5, 7, 25, 12, 27, 31])) State.reset
    outOf t = [17, 14, 21, 21, 24, 1] ∧ t.marker = ⟨4, 1⟩ := by decide +kernel

/-- W12: the nonce alone in Mode A and the first symbol of W5 after it. -/
theorem test_encn :
    outOf (after (exec .encn { kb [26, 7, 32, 1, 35, 10] with nlen := 5 }) State.reset) = [26, 7, 32, 1, 35, 9] := by decide +kernel

/-- W5: the same in Mode B. -/
theorem test_encn_mode_b :
    outOf (after (exec .encn { block .coRotating .modeB k3 [26, 7, 32, 1, 35, 10] with nlen := 5 }) State.reset)
      = [4, 31, 31, 10, 26, 9] := by decide +kernel

/-- W5, read back. -/
theorem test_decn :
    outOf (after (exec .decn { kb [26, 7, 32, 1, 35, 9] with nlen := 5 }) State.reset) = [10] := by decide +kernel

/-- E2: Mode B blames the whole wire message. -/
theorem test_decn_blame :
    let t := after (exec .decn { block .coRotating .modeB (List.range 36) [40, 10, 50, 11] with nlen := 2 }) State.reset
    t.ecode = 0x104 ∧ t.find.ill = 0x0004010000000000 ∧ t.olen = 0 := by decide +kernel

/-- E3: an illegal word before `NotConfigured`, right after reset. -/
theorem test_illegal_word : (after (step (State.reset.withFetchWord 32 0)) State.reset).ecode = 0x10 := by decide

/-- E3. -/
theorem test_not_configured : (after (step (State.reset.withFetchWord 32 0x30000000)) State.reset).ecode = 0x13 := by decide

/-- E6: an illegal `CONFIG` word is refused. -/
theorem test_config_refused :
    (after (step { State.reset with agenda := [.write 0x0002 0x005] }) State.reset).status.buserr = true := by decide

/-- P1: the `LOAD` line and a command as events. -/
theorem test_program_events :
    programEvents [.wr .config 0x106, .load [10, 20], .command .enc]
      = [.write 0x0002 0x106, .write 0x1000 10, .write 0x1001 20, .write 0x0008 2, .write 0x0007 0x30000000, .engine, .read 0x0004] := by
  decide

/-! ### Witnesses: the hypotheses of the claims can be met -/

theorem witness_DecodeOfEncodeIsTheCommand :
    (Instr.rotr true 7 (-128)).wellFormed = true ∧ (Instr.rotc false 0 127).wellFormed = true ∧ (Instr.posof 63).wellFormed = true := by
  decide

theorem witness_DecodedWordIsTheCommandsWord : decode 0x1201077F = .ok (.rotr true 7 127) := by decide

theorem witness_DecoderFollowsTheOpcodeMap :
    decode 0x05000003 = .ok (.chkmsg 3) ∧ (∃ row ∈ opcodeRows, 0x05000003 &&& row.mask = row.wordMatch) ∧
      ∀ row ∈ opcodeRows, ¬ (0x05000004 : Word) &&& row.mask = row.wordMatch := by
  decide

/-- A block with the word `w` in flight. -/
def inFlight (w : Word) (agenda : List Event) : State :=
  { kb [17] with cmd := w, agenda := agenda, status := { (kb [17]).status with busy := true } }

theorem witness_StepRunsTheCommandInFlight :
    (inFlight 0x30000000 []).status.busy = true ∧ decode (inFlight 0x30000000 []).cmd = .ok .enc ∧ (inFlight 0x30000000 []).agenda = [] := by
  decide

theorem witness_IllegalWordFails :
    (inFlight 0xFF000000 []).status.busy = true ∧ ∀ i, decode (inFlight 0xFF000000 []).cmd ≠ .ok i := by
  refine ⟨rfl, fun i h => ?_⟩
  rw [show decode (inFlight 0xFF000000 []).cmd = .error .unknownOpcode by decide] at h
  cases h

/-- A block in the fatal state. -/
def fatalBlock : State := { kb [17] with ecode := 5, status := { (kb [17]).status with fatal := true, done := true, err := true } }

theorem witness_CommandAcceptance :
    ((kb []).status.busy = false ∧ (kb []).status.fatal = false) ∧ (inFlight 0 []).status.busy = true ∧ fatalBlock.status.fatal = true := by
  decide

theorem witness_AcceptedCommandCompletes :
    ((inFlight 0x30000000 []).status.busy = true ∧ Event.hardReset ∉ (inFlight 0x30000000 []).agenda) ∧
      Event.hardReset ∉ (inFlight 0x30000000 [.read 0x0004, .engine]).agenda := by
  decide

theorem witness_CompletionIgnoresInterleaving :
    (inFlight 0x30000000 []).status.busy = true ∧ ∀ e ∈ [Event.read 0x0005, Event.write 0x0008 1], isAccess e := by
  refine ⟨rfl, fun e he => ?_⟩
  simp only [List.mem_cons, List.not_mem_nil, or_false] at he
  rcases he with rfl | rfl
  · exact .inl ⟨_, rfl⟩
  · exact .inr ⟨_, _, rfl⟩

theorem witness_CompletionWritesNoHostRegister :
    (∃ t, exec .enc (kb [17]) = .next t ∧ (Instr.enc ≠ .keylit ∧ Instr.enc ≠ .keydrv)) ∧
      ∃ t, exec .keydrv (kb [36]) = .next t ∧ t.status.err = true :=
  ⟨⟨_, exec_after .enc (kb [17]), by decide⟩, _, exec_after .keydrv (kb [36]), by decide +kernel⟩

/-- The invariant of a block with a key, a working state and a command in flight. -/
theorem inFlight_inv : Inv (inFlight 0x30000000 []) where
  key_valid _ := ⟨.six, rfl, k3_valid⟩
  grid_valid _ := ⟨.six, rfl, k3_valid, by decide⟩
  grid_has_key _ := rfl
  err_iff := by decide
  flags_ok := by decide
  code_known := .inl (by decide)
  fatal_ok h := by cases h
  busy_ok _ := rfl
  len_le := Nat.le_trans (by decide) Config.minBufDepth_le
  nlen_le := Nat.zero_le _
  olen_le := Nat.zero_le _
  idx_le := Nat.zero_le _
  ibuf_wf := by decide
  obuf_wf := by decide
  ibuf_within c h := by
    simp only [inFlight, kb, block, listed, List.zipIdx, List.map, List.mem_singleton] at h
    subst h
    exact Nat.lt_of_lt_of_le (by decide) Config.minBufDepth_le
  obuf_within c h := by cases h

theorem witness_StepKeepsTheInvariant : ∃ s t, Inv s ∧ step s = .next t ∧ s.status.busy = true ∧ t.status.busy = false :=
  ⟨_, _, inFlight_inv, exec_after .enc (inFlight 0x30000000 []), rfl, by decide +kernel⟩

/-- A message command, a check command, an operator command and an illegal word that fail. -/
theorem witness_FailureIsAtomic :
    ∀ w ∈ ([0x30000000, 0x02000000, 0x10000600, 0x00000000] : List Word), ∃ s t, s.cmd = w ∧ s.status.busy = true ∧
      step (facing s .engine []) = .next t ∧ t.status.err = true ∧ ecodeCode t.ecode ≠ 0x05 := by
  intro w hw
  let s : State := { kb [36] with cmd := w, status := { (kb [36]).status with busy := true } }
  refine ⟨s, _, rfl, rfl, step_after s rfl, ?_⟩
  simp only [List.mem_cons, List.not_mem_nil, or_false] at hw
  rcases hw with rfl | rfl | rfl | rfl <;> decide +kernel

theorem witness_FatalLastsUntilReset :
    fatalBlock.status.fatal = true ∧ fatalBlock.status.busy = false ∧ Event.write 0x0007 0x30000000 ≠ .hardReset ∧
      Event.write 0x0007 0x30000000 ≠ .write 0x0003 1 ∧
      ∃ t, step (facing fatalBlock (.write 0x0007 0x30000000) []) = .next t ∧ t.status.buserr = true :=
  ⟨rfl, rfl, by decide, by decide, _, rfl, by decide⟩

theorem witness_SoftResetErasesTheKey : fatalBlock.status.busy = false ∧ (inFlight 0 []).status.busy = true := by decide

theorem witness_AddressMapIsTheTable : (63 : Nat) < 64 ∧ Config.bufDepth - 1 < Config.bufDepth ∧ isMapped 0x0E ∧ ¬ isMapped 0x0F := by
  have := Config.minBufDepth_le
  refine ⟨by decide, by omega, .inl (by decide), ?_⟩
  unfold isMapped
  omega

/-- Every case of a refused write, at a boundary, and a write that is not refused. -/
theorem witness_WritesAreRefusedExactly :
    ¬ isMapped 0x00C0 ∧ ¬ isMapped 0x3000 ∧ ¬ isMapped (0x2000 + Config.bufDepth) ∧ isReadOnly 0x15 ∧ isReadOnly 0xBF ∧
      isIllegalValue 0x02 0x406 ∧ isIllegalValue 0x02 0x005 ∧ isIllegalValue 0x03 2 ∧ isIllegalValue 0x06 8 ∧
      isIllegalValue 0x08 (BitVec.ofNat 32 (Config.bufDepth + 1)) ∧ isIllegalValue 0x103F 64 ∧
      isRefusedWrite (inFlight 0 []) 0x0006 7 ∧ isRefusedWrite fatalBlock 0x0007 0 ∧ ¬ isRefusedWrite (kb []) 0x0002 0x306 := by
  have h1 := Config.minBufDepth_le
  have h2 := Config.bufDepth_le
  refine ⟨?_, ?_, ?_, ?_, ?_, ?_, ?_, ?_, ?_, ?_, ?_, ?_, ?_, ?_⟩
  · unfold isMapped; omega
  · unfold isMapped; omega
  · unfold isMapped; omega
  · exact .inr (.inr (.inr (.inr (.inl (by decide)))))
  · exact .inr (.inr (.inr (.inr (.inr (.inl (by decide))))))
  · exact .inl ⟨rfl, .inr (.inr (by decide))⟩
  · exact .inl ⟨rfl, .inl (by decide)⟩
  · exact .inr (.inl ⟨rfl, by decide⟩)
  · exact .inr (.inr (.inl ⟨rfl, by decide⟩))
  · exact .inr (.inr (.inr (.inl ⟨.inl rfl, by rw [BitVec.toNat_ofNat]; omega⟩)))
  · exact .inr (.inr (.inr (.inr ⟨by decide, by omega, by decide⟩)))
  · exact .inr (.inr (.inr (.inl rfl)))
  · exact .inr (.inr (.inr (.inr ⟨rfl, rfl⟩)))
  · rintro (h | h | h | h | h)
    · exact h (.inl (by decide))
    · unfold isReadOnly at h; omega
    · rcases h with ⟨_, h⟩ | ⟨h, _⟩ | ⟨h, _⟩ | ⟨h, _⟩ | ⟨h, _⟩
      · revert h; decide
      all_goals revert h; decide
    · cases h
    · exact absurd h.1 (by decide)

theorem witness_ReadsHaveNoSideEffect :
    ¬ isMapped 0x000F ∧ isMapped 0x0015 ∧ isMapped (0x2000 + (Config.bufDepth - 1)) ∧ (kb []).status.busy = false ∧
      (inFlight 0 []).status.busy = true ∧ (0x0015 : Addr) ≠ 0x0000 ∧ (0x0015 : Addr) ≠ 0x0001 ∧ (0x0015 : Addr) ≠ 0x0004 := by
  have := Config.minBufDepth_le
  refine ⟨?_, ?_, ?_, rfl, rfl, by decide, by decide, by decide⟩ <;> unfold isMapped <;> omega

theorem witness_WindowsShowValidGridsOnly :
    (kb []).status.busy = false ∧ (kb []).config.size = some .six ∧ (35 : Nat) < GridSize.six.count ∧ GridSize.six.count ≤ 36 ∧
      (36 : Nat) < 64 ∧ (kb []).status.keyvalid = true ∧ (kb []).status.gridvalid = true ∧ State.reset.status.keyvalid = false ∧
      State.reset.status.gridvalid = false := by
  decide

theorem witness_ConfigWriteDiscardsTheWorkingState :
    (kb []).status.busy = false ∧
      (0x306 : Word).toNat = GridSize.six.side + (if true then 256 else 0) + (if true then 512 else 0) ∧
      (0x007 : Word).toNat = GridSize.seven.side + (if false then 256 else 0) + (if false then 512 else 0) := by
  decide

theorem witness_PlainRegisterWrites :
    (kb []).status.busy = false ∧ (0 : Word).toNat ≤ Config.bufDepth ∧ (BitVec.ofNat 32 Config.bufDepth).toNat ≤ Config.bufDepth ∧
      (7 : Word).toNat ≤ 7 :=
  ⟨rfl, Nat.zero_le _, by have := Config.bufDepth_le; rw [BitVec.toNat_ofNat]; omega, by decide⟩

theorem witness_InputBufferReadAfterWrite :
    (kb [1, 2]).status.busy = false ∧ (kb [1, 2]).ibuf.wf ∧ 0 < Config.bufDepth ∧ Config.bufDepth - 1 < Config.bufDepth ∧
      (63 : Word).toNat ≤ 63 := by
  have := Config.minBufDepth_le
  exact ⟨rfl, by decide, by omega, by omega, by decide⟩

theorem witness_LoadLineFillsTheInputBuffer :
    (kb [1]).status.busy = false ∧ (kb [1]).ibuf.wf ∧ (kb [1]).agenda = [] ∧ ([10, 63] : List Sym).length ≤ Config.bufDepth :=
  ⟨rfl, by decide, rfl, Nat.le_trans (by decide) Config.minBufDepth_le⟩

theorem witness_PositionAddAndSubtract : posValid .seven ⟨6, 0⟩ := by decide

theorem witness_RotationsPermuteTheCells : 5 < GridSize.six.side ∧ gridValid .six (gridOf k3) := ⟨by decide, k3_valid⟩

theorem witness_RotationsAddUpAndUndo : 0 < GridSize.seven.side ∧ 6 < GridSize.seven.side ∧ (6 : Nat) ≠ 0 := by decide

theorem witness_MarkerStaysAttachedToItsTile : 0 < GridSize.six.side ∧ gridValid .six (gridOf k3) := ⟨by decide, k3_valid⟩

theorem witness_SymatReadsTheGrid :
    (kb []).config.size = some .six ∧ (5 : BitVec 3).toNat < GridSize.six.side ∧ (0 : BitVec 3).toNat < GridSize.six.side ∧
      (kb []).status.gridvalid = true := by
  decide

theorem witness_PosofFindsTheSymbolOrIsFatal :
    (kb []).config.size = some .six ∧ (kb []).status.gridvalid = true ∧
      ((35 : Nat) < GridSize.six.count ∧ cell (kb []).grid 35 = 8 ∧ ∀ j, j < 35 → cell (kb []).grid j ≠ 8) ∧
      ∀ k, k < GridSize.six.count → cell (kb []).grid k ≠ 36 := by
  decide +kernel

theorem witness_RotrRotatesTheRow :
    (kb []).config.size = some .six ∧ (5 : BitVec 3).toNat < GridSize.six.side ∧ (kb []).status.gridvalid = true := by decide

theorem witness_RotcRotatesTheColumn :
    (kb []).config.size = some .six ∧ (0 : BitVec 3).toNat < GridSize.six.side ∧ (kb []).status.gridvalid = true := by decide

theorem witness_MkadvAdvancesTheMarker :
    (kb []).config.size = some .six ∧ (35 : Sym).toNat < GridSize.six.count ∧ (kb []).status.gridvalid = true := by decide

theorem witness_InitStartsACall : (kb []).config.size = some .six ∧ (kb []).status.keyvalid = true := by decide

theorem witness_KeylitLoadsAPermutation :
    (ib k3).config.size = some .six ∧ (ib k3).len.toNat = GridSize.six.count ∧ clean .six (ib k3) 0 (ib k3).len.toNat ∧
      ∀ j k, j < GridSize.six.count → k < GridSize.six.count → ibufAt (ib k3) j = ibufAt (ib k3) k → j = k := by
  refine ⟨rfl, by decide +kernel, clean_of_all (by decide +kernel), ?_⟩
  have h : ∀ j, j < GridSize.six.count → ∀ k, k < GridSize.six.count → ibufAt (ib k3) j = ibufAt (ib k3) k → j = k := by
    decide +kernel
  exact fun j k hj hk => h j hj k hk

theorem witness_KeydrvFoldsTheKeyword :
    ((ib [28, 3]).config.size = some .six ∧ clean .six (ib [28, 3]) 0 (ib [28, 3]).len.toNat) ∧ clean .six (ib []) 0 (ib []).len.toNat :=
  ⟨⟨rfl, clean_of_all (by decide)⟩, clean_of_all (by decide)⟩

theorem witness_ChecksSucceedOnGoodInput :
    ((ib [35]).config.size = some .six ∧ clean .six (ib [35]) 0 (ib [35]).len.toNat ∧ (2 : BitVec 2) ≠ 3 ∧ (0 : BitVec 2) ≠ 3) ∧
      clean .six (ib k3) 0 (ib k3).len.toNat ∧ (ib k3).len.toNat = GridSize.six.count ∧
      ∀ j k, j < GridSize.six.count → k < GridSize.six.count → ibufAt (ib k3) j = ibufAt (ib k3) k → j = k :=
  ⟨⟨rfl, clean_of_all (by decide), by decide, by decide⟩, witness_KeylitLoadsAPermutation.2.2.1, witness_KeylitLoadsAPermutation.2.1,
    witness_KeylitLoadsAPermutation.2.2.2⟩

theorem witness_KeyValidationIsComplete :
    (63 : Nat) < 64 ∧ (keycheck .six [0, 0, 63]).ill.getLsbD 63 = true ∧ (keycheck .six [0, 0, 63]).miss.getLsbD 35 = true ∧
      (keycheck .six [0, 0, 63]).dup.getLsbD 0 = true := by
  decide +kernel

theorem witness_DerivationIsDeterministic :
    (ib [28, 3]).config.size = some .six ∧ (kb [28, 3]).config.size = some .six ∧ (ib [28, 3]).len = (kb [28, 3]).len ∧
      (∀ k, k < (ib [28, 3]).len.toNat → ibufAt (ib [28, 3]) k = ibufAt (kb [28, 3]) k) ∧
      clean .six (ib [28, 3]) 0 (ib [28, 3]).len.toNat :=
  ⟨rfl, rfl, rfl, by decide, clean_of_all (by decide)⟩

theorem witness_CipherStepFollowsTheRules :
    gridValid .six (gridOf k3) ∧ posValid .six ⟨5, 0⟩ ∧ posValid .six ⟨0, 5⟩ := ⟨k3_valid, by decide, by decide⟩

theorem witness_StepSymmetry :
    gridValid .six (gridOf k3) ∧ posValid .six ⟨0, 0⟩ ∧ (17 : Sym).toNat < GridSize.six.count ∧ (5 : Sym).toNat < GridSize.six.count ∧
      encstep .six .coRotating ⟨gridOf k3, ⟨0, 0⟩⟩ 17 = some (⟨gridOf k3Next, ⟨0, 0⟩⟩, 5) ∧
      decstep .six .coRotating ⟨gridOf k3, ⟨0, 0⟩⟩ 5 = some (⟨gridOf k3Next, ⟨0, 0⟩⟩, 17) :=
  ⟨k3_valid, by decide, by decide, by decide, by decide +kernel, by decide +kernel⟩

theorem witness_SingleStepsComplete :
    (kb []).config.size = some .six ∧ (kb []).status.gridvalid = true ∧ gridValid .six (kb []).grid ∧ posValid .six (kb []).marker ∧
      (35 : Sym).toNat < GridSize.six.count :=
  ⟨rfl, rfl, k3_valid, by decide, by decide⟩

theorem witness_EncAndDecProcessTheMessage :
    ((kb [17, 14]).config.size = some .six ∧ (kb [17, 14]).status.keyvalid = true ∧ gridValid .six (kb [17, 14]).key ∧
      (kb [17, 14]).obuf.wf ∧ clean .six (kb [17, 14]) 0 (kb [17, 14]).len.toNat) ∧ clean .six (kb []) 0 (kb []).len.toNat :=
  ⟨⟨rfl, rfl, k3_valid, by decide, clean_of_all (by decide)⟩, clean_of_all (by decide)⟩

/-- A block with a nonce of two symbols and a message of one. -/
def nb (nmode : NonceMode) (inp : List Nat) : State := { block .coRotating nmode k3 inp with nlen := 2 }

/-- The premises of ENCN and DECN, in both modes; with `NLEN = LEN` and with `NLEN = 0`. -/
theorem witness_EncnEncryptsWithNonce :
    (∀ nmode, (nb nmode [26, 7, 10]).config.size = some .six ∧ (nb nmode [26, 7, 10]).nlen.toNat ≤ (nb nmode [26, 7, 10]).len.toNat ∧
      (nb nmode [26, 7, 10]).status.keyvalid = true ∧ gridValid .six (nb nmode [26, 7, 10]).key ∧ (nb nmode [26, 7, 10]).obuf.wf ∧
      clean .six (nb nmode [26, 7, 10]) 0 (nb nmode [26, 7, 10]).len.toNat) ∧
      (nb .modeA [26, 7]).nlen.toNat = (nb .modeA [26, 7]).len.toNat ∧ clean .six (nb .modeA [26, 7]) 0 (nb .modeA [26, 7]).len.toNat ∧
      (kb [17]).nlen.toNat ≤ (kb [17]).len.toNat :=
  ⟨fun nmode => ⟨rfl, by cases nmode <;> decide, rfl, k3_valid, List.Pairwise.nil, clean_of_all (by cases nmode <;> decide)⟩, by decide,
    clean_of_all (by decide), by decide⟩

theorem witness_DecnDecryptsWithNonce :
    ∀ nmode, (nb nmode [26, 7, 9]).config.size = some .six ∧ (nb nmode [26, 7, 9]).nlen.toNat ≤ (nb nmode [26, 7, 9]).len.toNat ∧
      (nb nmode [26, 7, 9]).status.keyvalid = true ∧ gridValid .six (nb nmode [26, 7, 9]).key ∧ (nb nmode [26, 7, 9]).obuf.wf ∧
      clean .six (nb nmode [26, 7, 9]) 0 (nb nmode [26, 7, 9]).len.toNat :=
  fun nmode => ⟨rfl, by cases nmode <;> decide, rfl, k3_valid, List.Pairwise.nil, clean_of_all (by cases nmode <;> decide)⟩

theorem witness_EmptyNonceIsPlainEncryption : (kb [17]).nlen = 0 := by decide

/-- The reader's block after the sender's ENC of `he`. -/
theorem witness_DecryptionReturnsTheMessage :
    ∃ s s' t, s.config.size = some .six ∧ s.status.keyvalid = true ∧ gridValid .six s.key ∧ s.obuf.wf ∧ clean .six s 0 s.len.toNat ∧
      exec .enc s = .next t ∧ s'.config = s.config ∧ s'.status.keyvalid = true ∧ s'.obuf.wf ∧ s'.len = t.olen ∧
      (∀ k, k < GridSize.six.count → cell s'.key k = cell s.key k) ∧ (∀ k, k < t.olen.toNat → ibufAt s' k = obufAt t k) ∧
      s.len = 2 :=
  ⟨kb [17, 14], kb [5, 7], _, rfl, rfl, k3_valid, by decide, clean_of_all (by decide), exec_after .enc (kb [17, 14]), rfl, rfl, by decide,
    by decide +kernel, by decide +kernel, by decide +kernel, rfl⟩

/-- The reader's block after the sender's ENCN in Mode B. -/
theorem witness_DecryptionWithNonceReturnsThePlaintext :
    ∃ s s' t, s.config.size = some .six ∧ s.nlen.toNat ≤ s.len.toNat ∧ s.status.keyvalid = true ∧ gridValid .six s.key ∧ s.obuf.wf ∧
      clean .six s 0 s.len.toNat ∧ exec .encn s = .next t ∧ s'.config = s.config ∧ s'.status.keyvalid = true ∧ s'.obuf.wf ∧
      s'.len = t.olen ∧ s'.nlen = s.nlen ∧ (∀ k, k < GridSize.six.count → cell s'.key k = cell s.key k) ∧
      (∀ k, k < t.olen.toNat → ibufAt s' k = obufAt t k) ∧ s.len = 3 :=
  ⟨nb .modeB [26, 7, 10], { nb .modeB [26, 7, 10] with ibuf := (after (exec .encn (nb .modeB [26, 7, 10])) State.reset).obuf }, _, rfl,
    by decide, rfl, k3_valid, List.Pairwise.nil, clean_of_all (by decide), exec_after .encn (nb .modeB [26, 7, 10]), rfl, rfl,
    List.Pairwise.nil, by decide +kernel, rfl, by decide +kernel, by decide +kernel, rfl⟩

/-- Two blocks that differ in what the call before left. -/
theorem witness_CallsDoNotSeeEarlierCalls :
    ∃ s1 s2 t1 t2, isMessage .enc ∧ s1.config = s2.config ∧ s1.config.size = some .six ∧ s1.status.keyvalid = true ∧
      s2.status.keyvalid = true ∧ gridValid .six s1.key ∧ (∀ k, k < GridSize.six.count → cell s1.key k = cell s2.key k) ∧
      s1.len = s2.len ∧ s1.nlen = s2.nlen ∧ (∀ k, k < s1.len.toNat → ibufAt s1 k = ibufAt s2 k) ∧ s1.obuf.wf ∧ s2.obuf.wf ∧
      exec .enc s1 = .next t1 ∧ exec .enc s2 = .next t2 ∧ s1.grid ≠ s2.grid ∧ t1.status.err = false :=
  ⟨kb [17], { kb [17] with grid := gridOf k3Next, marker := ⟨4, 1⟩, olen := 5 }, _, _, .inl rfl, rfl, rfl, rfl, rfl, k3_valid,
    fun _ _ => rfl, rfl, rfl, fun _ _ => rfl, by decide, by decide, exec_after .enc _, exec_after .enc _, by decide +kernel,
    by decide +kernel⟩

theorem witness_UnconfiguredBlockFailsEveryCommand : State.reset.config.size = none := rfl

/-- A configured block without a key. -/
def keyless : State := { State.reset with config := ⟨some .six, .coRotating, .modeA⟩, len := 5, nlen := 5 }

theorem witness_CommandsWithoutAGridFail :
    keyless.config.size = some .six ∧ keyless.status.keyvalid = false ∧ keyless.nlen.toNat ≤ keyless.len.toNat ∧
      keyless.status.gridvalid = false ∧ (5 : BitVec 3).toNat < GridSize.six.side ∧ (0 : BitVec 3).toNat < GridSize.six.side ∧
      (35 : Sym).toNat < GridSize.six.count := by
  decide

theorem witness_OperandsAndLengthsOutOfRangeFail :
    (kb []).config.size = some .six ∧ GridSize.six.side ≤ (6 : BitVec 3).toNat ∧ GridSize.six.count ≤ (36 : Sym).toNat ∧
      ({ kb [1] with nlen := 2 } : State).len.toNat < ({ kb [1] with nlen := 2 } : State).nlen.toNat := by
  decide

theorem witness_BadKeysAreReported :
    (kb [1]).config.size = some .six ∧ ¬ ((input (kb [1])).map BitVec.toNat).Perm (List.range GridSize.six.count) := by
  decide +kernel

theorem witness_IllegalSymbolsAreReported :
    (kb [10, 36]).config.size = some .six ∧ ¬ clean .six (kb [10, 36]) 0 (kb [10, 36]).len.toNat ∧ (kb [10, 36]).status.keyvalid = true ∧
      (kb [10, 36]).status.gridvalid = true ∧ GridSize.six.count ≤ (36 : Sym).toNat ∧ GridSize.six.count ≤ (63 : Sym).toNat :=
  ⟨rfl, not_clean_of 1 (by decide), rfl, rfl, by decide, by decide⟩

theorem witness_NonceStretchIsBlamedFirst :
    ((nb .modeA [4, 40, 10]).config.size = some .six ∧ (nb .modeA [4, 40, 10]).nlen.toNat ≤ (nb .modeA [4, 40, 10]).len.toNat ∧
      (nb .modeA [4, 40, 10]).status.keyvalid = true ∧ (nb .modeA [4, 40, 10]).config.nmode = .modeA ∧
      ¬ clean .six (nb .modeA [4, 40, 10]) 0 (nb .modeA [4, 40, 10]).nlen.toNat) ∧
      (clean .six (nb .modeA [4, 10, 50]) 0 (nb .modeA [4, 10, 50]).nlen.toNat ∧
        ¬ clean .six (nb .modeA [4, 10, 50]) (nb .modeA [4, 10, 50]).nlen.toNat (nb .modeA [4, 10, 50]).len.toNat) ∧
      (nb .modeB [4, 10, 50]).config.nmode = .modeB ∧ ¬ clean .six (nb .modeB [4, 10, 50]) 0 (nb .modeB [4, 10, 50]).len.toNat :=
  ⟨⟨rfl, by decide, rfl, rfl, not_clean_of 1 (by decide)⟩, ⟨clean_of_all (by decide), not_clean_of 2 (by decide)⟩, rfl,
    not_clean_of 2 (by decide)⟩

theorem witness_InstancesShareNothing :
    ∃ ss', stepInstance 1 [kb [], inFlight 0x30000000 []] = .next ss' ∧ [kb [], inFlight 0x30000000 []][1]? = some (inFlight 0x30000000 []) :=
  ⟨_, rfl, rfl⟩

end Sys2Proof.Tests
end

/-! PROOFS of the family 10_state. First the facts about grids, keys and working states, then the invariant (10_state R46), then what
the host's accesses read and write. -/

namespace Sys2Proof.Machine

/-! ### Valid grids under a reindexing of the cells -/

/-- A grid that reads a valid grid through an injective map of the cells below `N` is valid. -/
theorem gridValid_reindex {sz : GridSize} {G H : Grid} (σ : Nat → Nat) (hG : gridValid sz G)
    (hlt : ∀ k, k < sz.count → σ k < sz.count)
    (hinj : ∀ j, j < sz.count → ∀ k, k < sz.count → σ j = σ k → j = k)
    (hcell : ∀ k, k < sz.count → cell H k = cell G (σ k)) : gridValid sz H := by
  obtain ⟨hsym, hdistinct⟩ := hG
  refine ⟨fun k hk => hcell k hk ▸ hsym _ (hlt k hk), fun j hj k hk e => hinj j hj k hk ?_⟩
  exact hdistinct _ (hlt j hj) _ (hlt k hk) (by rw [← hcell j hj, ← hcell k hk, e])

/-- Shifting by a fixed amount modulo `size` is injective on `0 .. size-1`. -/
theorem modSize_sub_inj {sz : GridSize} {a b : Nat} (n : Int) (ha : a < sz.side) (hb : b < sz.side)
    (h : modSize sz ((a : Int) - n) = modSize sz ((b : Int) - n)) : a = b := by
  have hmod : ((a : Int) - n) % (sz.side : Int) = ((b : Int) - n) % (sz.side : Int) := by
    rw [← modSize_toNat, ← modSize_toNat, h]
  have hab : (a : Int) % (sz.side : Int) = (b : Int) % (sz.side : Int) := (Int.emod_sub_cancel_right n).1 hmod
  rw [Int.emod_eq_of_lt (by omega) (by omega), Int.emod_eq_of_lt (by omega) (by omega)] at hab
  omega

/-- The column that a row rotation reads from (40_grid_ops R125). -/
def rotrSource (sz : GridSize) (r : Nat) (n : Int) (r' c' : Nat) : Nat :=
  if r' = r then (modSize sz ((c' : Int) - n)).toNat else c'

/-- The row that a column rotation reads from (40_grid_ops R126). -/
def rotcSource (sz : GridSize) (c : Nat) (n : Int) (r' c' : Nat) : Nat :=
  if c' = c then (modSize sz ((r' : Int) - n)).toNat else r'

theorem rotrSource_lt (sz : GridSize) (r : Nat) (n : Int) (r' : Nat) {c' : Nat} (hc : c' < sz.side) :
    rotrSource sz r n r' c' < sz.side := by
  unfold rotrSource; split
  · exact modSize_lt sz _
  · exact hc

theorem rotcSource_lt (sz : GridSize) (c : Nat) (n : Int) {r' : Nat} (c' : Nat) (hr : r' < sz.side) :
    rotcSource sz c n r' c' < sz.side := by
  unfold rotcSource; split
  · exact modSize_lt sz _
  · exact hr

theorem rotrSource_inj {sz : GridSize} {r : Nat} {n : Int} {r' a b : Nat} (ha : a < sz.side) (hb : b < sz.side)
    (h : rotrSource sz r n r' a = rotrSource sz r n r' b) : a = b := by
  unfold rotrSource at h
  by_cases hr : r' = r
  · rw [if_pos hr, if_pos hr] at h
    exact modSize_sub_inj n ha hb (BitVec.eq_of_toNat_eq h)
  · rwa [if_neg hr, if_neg hr] at h

theorem rotcSource_inj {sz : GridSize} {c : Nat} {n : Int} {c' a b : Nat} (ha : a < sz.side) (hb : b < sz.side)
    (h : rotcSource sz c n a c' = rotcSource sz c n b c') : a = b := by
  unfold rotcSource at h
  by_cases hc : c' = c
  · rw [if_pos hc, if_pos hc] at h
    exact modSize_sub_inj n ha hb (BitVec.eq_of_toNat_eq h)
  · rwa [if_neg hc, if_neg hc] at h

/-- A row rotation of a valid grid is valid, whatever the line and the amount. -/
theorem gridValid_rotr {sz : GridSize} {G : Grid} (r : Nat) (n : Int) (hG : gridValid sz G) : gridValid sz (rotr sz G r n) := by
  refine gridValid_reindex (fun k => k / sz.side * sz.side + rotrSource sz r n (k / sz.side) (k % sz.side)) hG ?_ ?_ ?_
  · intro k hk
    obtain ⟨r', c', hr, hc, rfl⟩ := exists_flat sz hk
    simp only [flat_div sz r' hc, flat_mod sz r' hc]
    exact flat_lt_count sz hr (rotrSource_lt sz r n r' hc)
  · intro j hj k hk e
    obtain ⟨r1, c1, -, hc1, rfl⟩ := exists_flat sz hj
    obtain ⟨r2, c2, -, hc2, rfl⟩ := exists_flat sz hk
    simp only [flat_div sz _ hc1, flat_mod sz _ hc1, flat_div sz _ hc2, flat_mod sz _ hc2] at e
    obtain ⟨rfl, hs⟩ := flat_inj sz (rotrSource_lt sz r n r1 hc1) (rotrSource_lt sz r n r2 hc2) e
    rw [rotrSource_inj hc1 hc2 hs]
  · intro k hk
    obtain ⟨r', c', hr, hc, rfl⟩ := exists_flat sz hk
    simp only [flat_div sz r' hc, flat_mod sz r' hc, cell_rotr sz G r n hr hc, rotrSource]
    split <;> rfl

/-- A column rotation of a valid grid is valid, whatever the line and the amount. -/
theorem gridValid_rotc {sz : GridSize} {G : Grid} (c : Nat) (n : Int) (hG : gridValid sz G) : gridValid sz (rotc sz G c n) := by
  refine gridValid_reindex (fun k => rotcSource sz c n (k / sz.side) (k % sz.side) * sz.side + k % sz.side) hG ?_ ?_ ?_
  · intro k hk
    obtain ⟨r', c', hr, hc, rfl⟩ := exists_flat sz hk
    simp only [flat_div sz r' hc, flat_mod sz r' hc]
    exact flat_lt_count sz (rotcSource_lt sz c n c' hr) hc
  · intro j hj k hk e
    obtain ⟨r1, c1, hr1, hc1, rfl⟩ := exists_flat sz hj
    obtain ⟨r2, c2, hr2, hc2, rfl⟩ := exists_flat sz hk
    simp only [flat_div sz _ hc1, flat_mod sz _ hc1, flat_div sz _ hc2, flat_mod sz _ hc2] at e
    obtain ⟨hs, rfl⟩ := flat_inj sz hc1 hc2 e
    rw [rotcSource_inj hr1 hr2 hs]
  · intro k hk
    obtain ⟨r', c', hr, hc, rfl⟩ := exists_flat sz hk
    simp only [flat_div sz r' hc, flat_mod sz r' hc, cell_rotc sz G c n hr hc, rotcSource]
    split <;> rfl

/-! ### Valid keys -/

/-- A cell index below `N` is a 6-bit code. -/
theorem toNat_ofNat_of_lt_count {sz : GridSize} {k : Nat} (h : k < sz.count) : (BitVec.ofNat 6 k).toNat = k := by
  have := count_le sz
  exact Nat.mod_eq_of_lt (by omega)

theorem gridValid_identityGrid (sz : GridSize) : gridValid sz (identityGrid sz) := by
  refine ⟨fun k hk => ?_, fun j hj k hk e => ?_⟩
  · rw [cell_identityGrid sz hk, toNat_ofNat_of_lt_count hk]; exact hk
  · rw [cell_identityGrid sz hj, cell_identityGrid sz hk] at e
    rw [← toNat_ofNat_of_lt_count hj, e, toNat_ofNat_of_lt_count hk]

theorem gridValid_deriveFrom {sz : GridSize} (kw : List Sym) (i : Nat) {G : Grid} (hG : gridValid sz G) :
    gridValid sz (deriveFrom sz i G kw) := by
  induction kw generalizing i G with
  | nil => exact hG
  | cons v kw ih => exact ih _ (gridValid_rotc _ _ (gridValid_rotr _ _ hG))

/-- A derived key is valid: it is the identity under rotations (41_key_derivation R150). -/
theorem gridValid_derive (sz : GridSize) (kw : List Sym) : gridValid sz (derive sz kw) :=
  gridValid_deriveFrom kw 0 (gridValid_identityGrid sz)

/-- Storing the cells below `N` from `f` gives a valid grid when `f` is a permutation there. -/
theorem gridValid_storeCells {sz : GridSize} {f : Nat → Sym} (dst : Grid) (hlt : ∀ k, k < sz.count → (f k).toNat < sz.count)
    (hinj : ∀ j, j < sz.count → ∀ k, k < sz.count → f j = f k → j = k) : gridValid sz (storeCells sz.count f dst) := by
  refine ⟨fun k hk => ?_, fun j hj k hk e => hinj j hj k hk ?_⟩
  · rw [cell_storeCells_lt f dst hk]; exact hlt k hk
  · rwa [cell_storeCells_lt f dst hj, cell_storeCells_lt f dst hk] at e

/-- A copy of the cells below `N` of a valid grid is valid. -/
theorem gridValid_copy {sz : GridSize} {G : Grid} (dst : Grid) (hG : gridValid sz G) :
    gridValid sz (storeCells sz.count (cell G) dst) := gridValid_storeCells dst hG.1 hG.2

theorem occurrences_eq_count (buf : List Sym) (x : Sym) : occurrences buf x.toNat = buf.count x := by
  rw [occurrences, List.count]
  refine List.countP_congr fun y _ => ?_
  simp [← BitVec.toNat_inj]

/-- No code is missing when every code below `N` occurs (41_key_derivation R151). -/
theorem keycheck_miss_eq_zero {sz : GridSize} {buf : List Sym} :
    (keycheck sz buf).miss = 0 ↔ ∀ x : Sym, x.toNat < sz.count → x ∈ buf := by
  simp only [keycheck, symSetOf_eq_zero]
  refine ⟨fun h x hx => ?_, fun h v hv => ?_⟩
  · have := h x.toNat x.isLt
    exact List.count_pos_iff.1 (Nat.pos_of_ne_zero (by simpa [hx, occurrences_eq_count] using this))
  · have hx := h (BitVec.ofNat 6 v)
    have hn : (BitVec.ofNat 6 v).toNat = v := Nat.mod_eq_of_lt hv
    rw [← List.count_pos_iff, ← occurrences_eq_count, hn] at hx
    simp only [Bool.and_eq_false_iff, decide_eq_false_iff_not]
    omega

/-- No code is duplicated when no code below `N` occurs twice (R151). -/
theorem keycheck_dup_eq_zero {sz : GridSize} {buf : List Sym} :
    (keycheck sz buf).dup = 0 ↔ ∀ x : Sym, x.toNat < sz.count → buf.count x ≤ 1 := by
  simp only [keycheck, symSetOf_eq_zero]
  refine ⟨fun h x hx => ?_, fun h v hv => ?_⟩
  · have := h x.toNat x.isLt
    simpa [hx, occurrences_eq_count, Nat.lt_succ_iff] using this
  · have hx := h (BitVec.ofNat 6 v)
    have hn : (BitVec.ofNat 6 v).toNat = v := Nat.mod_eq_of_lt hv
    rw [← occurrences_eq_count, hn] at hx
    simp only [Bool.and_eq_false_iff, decide_eq_false_iff_not]
    omega

/-- What an empty report of `keycheck` says (R151): every symbol is below `N`, every code below `N` occurs, none occurs twice. -/
theorem keycheck_eq_noFindings {sz : GridSize} {buf : List Sym} (h : keycheck sz buf = noFindings) :
    (∀ x ∈ buf, x.toNat < sz.count) ∧ (∀ x : Sym, x.toNat < sz.count → x ∈ buf) ∧ buf.Nodup := by
  have hlt := (badset_eq_zero sz buf).1 (congrArg Findings.ill h)
  have hdup := keycheck_dup_eq_zero.1 (congrArg Findings.dup h)
  refine ⟨hlt, keycheck_miss_eq_zero.1 (congrArg Findings.miss h), List.nodup_iff_count_le_one.2 fun x => ?_⟩
  by_cases hx : x ∈ buf
  · exact hdup x (hlt x hx)
  · rw [List.count_eq_zero_of_not_mem hx]; exact Nat.zero_le 1

/-- A list that holds every code below `N` has at least `N` elements. -/
theorem count_le_length {sz : GridSize} {buf : List Sym} (h : ∀ x : Sym, x.toNat < sz.count → x ∈ buf) :
    sz.count ≤ buf.length := by
  have hsub : List.range sz.count ⊆ buf.map BitVec.toNat := by
    intro k hk
    have hk := List.mem_range.1 hk
    refine List.mem_map.2 ⟨BitVec.ofNat 6 k, h _ ?_, toNat_ofNat_of_lt_count hk⟩
    rwa [toNat_ofNat_of_lt_count hk]
  simpa using (List.nodup_range.subperm hsub).length_le

/-- A literal key that passes `keycheck` is stored as a valid grid (41_key_derivation R151, R153). -/
theorem gridValid_of_keycheck {sz : GridSize} {s : State} (dst : Grid) (h : keycheck sz (input s) = noFindings) :
    gridValid sz (storeCells sz.count (ibufAt s) dst) := by
  obtain ⟨hlt, hall, hnodup⟩ := keycheck_eq_noFindings h
  have hlen := count_le_length hall
  have hget : ∀ k (hk : k < sz.count), ∃ hk' : k < (input s).length, (input s)[k] = ibufAt s k :=
    fun k hk => ⟨by omega, input_getElem s k (by omega)⟩
  refine gridValid_storeCells dst (fun k hk => ?_) (fun j hj k hk e => ?_)
  · obtain ⟨hk', e⟩ := hget k hk
    exact e ▸ hlt _ (List.getElem_mem hk')
  · obtain ⟨hj', ej⟩ := hget j hj
    obtain ⟨hk', ek⟩ := hget k hk
    exact (hnodup.getElem_inj_iff).1 (by rw [ej, ek, e])

/-! ### Valid working states -/

/-- The grid of a working state is valid and its marker is on it (10_state R46). -/
abbrev workValid (sz : GridSize) (W : Work) : Prop := gridValid sz W.grid ∧ posValid sz W.marker

/-- A step answers valid working states on valid ones. -/
abbrev stepKeepsWork (sz : GridSize) (f : Work → Sym → Option (Work × Sym)) : Prop :=
  ∀ {W W' : Work} {x y : Sym}, workValid sz W → f W x = some (W', y) → workValid sz W'

/-- A run over a message answers valid working states on valid ones, and no more than `n` outputs. -/
abbrev runKeepsWork (sz : GridSize) (n : Nat) (run : Work → Option (Work × List Sym)) : Prop :=
  ∀ {W W' : Work} {out : List Sym}, workValid sz W → run W = some (W', out) → workValid sz W' ∧ out.length ≤ n

/-- The working state after steps 4 to 6 of either direction is valid (42_cipher_step R171). -/
theorem tail_valid {sz : GridSize} {mode : MarkerMode} {W W' : Work} {pp : Pos} {c : Sym} (hW : workValid sz W)
    (h : tail sz mode W pp c = some W') : workValid sz W' := by
  obtain ⟨cp', -, rfl⟩ := tail_cases h
  exact ⟨gridValid_rotc _ _ (gridValid_rotr _ _ hW.1), padd_valid sz _ _⟩

theorem encstep_keeps (sz : GridSize) (mode : MarkerMode) : stepKeepsWork sz (encstep sz mode) := by
  intro W W' x y hW h
  obtain ⟨pp, -, -, ht⟩ := encstep_cases h
  exact tail_valid hW ht

theorem decstep_keeps (sz : GridSize) (mode : MarkerMode) : stepKeepsWork sz (decstep sz mode) := by
  intro W W' x y hW h
  obtain ⟨cp, -, -, ht⟩ := decstep_cases h
  exact tail_valid hW ht

theorem foldSteps_valid {sz : GridSize} {f : Work → Sym → Option (Work × Sym)} (hf : stepKeepsWork sz f) {W W' : Work}
    {xs ys : List Sym} (hW : workValid sz W) (h : foldSteps f W xs = some (W', ys)) : workValid sz W' := by
  induction xs generalizing W ys with
  | nil => simp only [foldSteps_nil, Option.some.injEq, Prod.mk.injEq] at h; exact h.1 ▸ hW
  | cons x xs ih =>
    obtain ⟨W1, y, ys', hx, hxs, -⟩ := foldSteps_cons.1 h
    exact ih (hf hW hx) hxs

theorem foldSteps_keeps {sz : GridSize} {f : Work → Sym → Option (Work × Sym)} (hf : stepKeepsWork sz f) (inp : List Sym) :
    runKeepsWork sz inp.length fun W => foldSteps f W inp :=
  fun hW h => ⟨foldSteps_valid hf hW h, (foldSteps_length h).le⟩

/-- Everything encryption with a nonce can answer (43_message_commands R196, R197). -/
theorem encryptWithNonce_cases {sz : GridSize} {mode : MarkerMode} {nmode : NonceMode} {n : Nat} {W W' : Work}
    {inp out : List Sym} (h : encryptWithNonce sz mode nmode n W inp = some (W', out)) :
    (nmode = .modeA ∧ ∃ W1 pre body, foldSteps (encstep sz mode) W (inp.take n) = some (W1, pre) ∧
        foldSteps (encstep sz mode) W1 (inp.drop n) = some (W', body) ∧ out = inp.take n ++ body) ∨
      (nmode = .modeB ∧ foldSteps (encstep sz mode) W inp = some (W', out)) := by
  cases nmode with
  | modeB => exact .inr ⟨rfl, h⟩
  | modeA =>
    simp only [encryptWithNonce] at h
    split at h
    · cases h
    · rename_i W1 pre hpre
      split at h
      · cases h
      · rename_i W2 body hbody
        simp only [Option.some.injEq, Prod.mk.injEq] at h
        obtain ⟨rfl, rfl⟩ := h
        exact .inl ⟨rfl, W1, pre, body, hpre, hbody, rfl⟩

/-- Everything decryption with a nonce can answer (43_message_commands R198, R199). -/
theorem decryptWithNonce_cases {sz : GridSize} {mode : MarkerMode} {nmode : NonceMode} {n : Nat} {W W' : Work}
    {inp out : List Sym} (h : decryptWithNonce sz mode nmode n W inp = some (W', out)) :
    (nmode = .modeA ∧ ∃ W1 pre, foldSteps (encstep sz mode) W (inp.take n) = some (W1, pre) ∧
        foldSteps (decstep sz mode) W1 (inp.drop n) = some (W', out)) ∨
      (nmode = .modeB ∧ ∃ all, foldSteps (decstep sz mode) W inp = some (W', all) ∧ out = all.drop n) := by
  cases nmode with
  | modeA =>
    simp only [decryptWithNonce] at h
    split at h
    · cases h
    · rename_i W1 pre hpre
      exact .inl ⟨rfl, W1, pre, hpre, h⟩
  | modeB =>
    simp only [decryptWithNonce] at h
    split at h
    · cases h
    · rename_i W1 all hall
      simp only [Option.some.injEq, Prod.mk.injEq] at h
      obtain ⟨rfl, rfl⟩ := h
      exact .inr ⟨rfl, all, hall, rfl⟩

theorem encryptWithNonce_keeps (sz : GridSize) (mode : MarkerMode) (nmode : NonceMode) (n : Nat) (inp : List Sym) :
    runKeepsWork sz inp.length fun W => encryptWithNonce sz mode nmode n W inp := by
  intro W W' out hW h
  rcases encryptWithNonce_cases h with ⟨-, W1, pre, body, hpre, hbody, rfl⟩ | ⟨-, hall⟩
  · refine ⟨foldSteps_valid (encstep_keeps sz mode) (foldSteps_valid (encstep_keeps sz mode) hW hpre) hbody, ?_⟩
    have := foldSteps_length hbody
    simp only [List.length_append, List.length_take, List.length_drop] at this ⊢
    omega
  · exact foldSteps_keeps (encstep_keeps sz mode) inp hW hall

theorem decryptWithNonce_keeps (sz : GridSize) (mode : MarkerMode) (nmode : NonceMode) (n : Nat) (inp : List Sym) :
    runKeepsWork sz inp.length fun W => decryptWithNonce sz mode nmode n W inp := by
  intro W W' out hW h
  rcases decryptWithNonce_cases h with ⟨-, W1, pre, hpre, hout⟩ | ⟨-, all, hall, rfl⟩
  · refine ⟨foldSteps_valid (decstep_keeps sz mode) (foldSteps_valid (encstep_keeps sz mode) hW hpre) hout, ?_⟩
    have := foldSteps_length hout
    simp only [List.length_drop] at this
    omega
  · obtain ⟨hW', hlen⟩ := foldSteps_keeps (decstep_keeps sz mode) inp hW hall
    refine ⟨hW', ?_⟩
    simp only [List.length_drop]
    omega

end Sys2Proof.Machine

namespace Sys2Proof.Machine

/-! ### The invariant under each write of a command

What a command writes before it completes keeps the invariant, and so does each outcome (60_exceptions R222, R223, R230, R234). -/

theorem Inv.withAgenda {s : State} (h : Inv s) (rest : List Event) : Inv { s with agenda := rest } := { h with }

theorem Inv.succeed {s : State} (h : Inv s) (hf : s.status.fatal = false) : Inv (succeed s) :=
  { h with
    err_iff := by simp [ecodeCode]
    flags_ok := by simp only [succeed_ecode, succeed_find]; decide
    code_known := .inl (by simp [ecodeCode])
    fatal_ok := fun hf' => absurd hf' (by simp [hf])
    busy_ok := nofun }

theorem Inv.fail {s : State} (h : Inv s) (hf : s.status.fatal = false) (e : CmdError) (f : Findings) : Inv (fail e f s) :=
  { h with
    err_iff := by simp
    flags_ok := by simp
    code_known := .inr (.inr ⟨e, by simp⟩)
    fatal_ok := fun hf' => absurd hf' (by simp [hf])
    busy_ok := nofun }

theorem Inv.fatal {s : State} (h : Inv s) : Inv (fatal s) :=
  { h with
    err_iff := by simp [symbolNotFoundCode]
    flags_ok := by simp
    code_known := .inr (.inl (by simp))
    fatal_ok := fun _ => ⟨rfl, by simp⟩
    busy_ok := nofun }

theorem Inv.dropGrid {s : State} (h : Inv s) : Inv (dropGrid s) := { h with grid_valid := nofun, grid_has_key := nofun }

theorem Inv.withIdx {s : State} (h : Inv s) {n : Count} (hn : n.toNat ≤ Config.bufDepth) : Inv { s with idx := n } :=
  { h with idx_le := hn }

theorem Inv.withOlen {s : State} (h : Inv s) {n : Count} (hn : n.toNat ≤ Config.bufDepth) : Inv { s with olen := n } :=
  { h with olen_le := hn }

theorem Inv.failKeyInput {s : State} (h : Inv s) (hf : s.status.fatal = false) (e : CmdError) (f : Findings) :
    Inv (failKeyInput e f s) := (h.withIdx (n := 0) (Nat.zero_le _)).fail hf e f

theorem Inv.failMessageInput {s : State} (h : Inv s) (hf : s.status.fatal = false) (e : CmdError) (bad : SymSet) :
    Inv (failMessageInput e bad s) := ((h.withOlen (n := 0) (Nat.zero_le _)).withIdx (n := 0) (Nat.zero_le _)).fail hf e _

theorem Inv.fatalInStep {s : State} (h : Inv s) : Inv (fatalInStep s) := h.dropGrid.fatal

theorem Inv.fatalInMessage {s : State} (h : Inv s) : Inv (fatalInMessage s) :=
  ((h.withOlen (n := 0) (Nat.zero_le _)).withIdx (n := 0) (Nat.zero_le _)).dropGrid.fatal

/-- The working state of a block whose `GRIDVALID` is 1 (10_state R46). -/
theorem Inv.work {s : State} (h : Inv s) {sz : GridSize} (hsz : s.config.size = some sz) (hg : s.status.gridvalid = true) :
    gridValid sz s.grid ∧ posValid sz s.marker := by
  obtain ⟨sz', hsz', hgrid, hmarker⟩ := h.grid_valid hg
  obtain rfl : sz' = sz := Option.some.inj (hsz'.symm.trans hsz)
  exact ⟨hgrid, hmarker⟩

/-- The key of a block whose `KEYVALID` is 1 (10_state R46). -/
theorem Inv.gridValid_key {s : State} (h : Inv s) {sz : GridSize} (hsz : s.config.size = some sz)
    (hk : s.status.keyvalid = true) : gridValid sz s.key := by
  obtain ⟨sz', hsz', hkey⟩ := h.key_valid hk
  obtain rfl : sz' = sz := Option.some.inj (hsz'.symm.trans hsz)
  exact hkey

/-- Writing a valid working state, and `GRIDVALID` when there is a key. -/
theorem Inv.withWork {s : State} (h : Inv s) {sz : GridSize} (hsz : s.config.size = some sz)
    (hk : s.status.keyvalid = true) {W : Work} (hW : workValid sz W) :
    Inv { s with grid := W.grid, marker := W.marker, status := { s.status with gridvalid := true } } :=
  { h with
    grid_valid := fun _ => ⟨sz, hsz, hW⟩
    grid_has_key := fun _ => hk }

/-- Writing a valid working state over a working state. -/
theorem Inv.overWork {s : State} (h : Inv s) {sz : GridSize} (hsz : s.config.size = some sz) {W : Work} (hW : workValid sz W) :
    Inv { s with grid := W.grid, marker := W.marker } :=
  { h with grid_valid := fun _ => ⟨sz, hsz, hW⟩ }

theorem Inv.startCall {s : State} (h : Inv s) {sz : GridSize} (hsz : s.config.size = some sz) (hk : s.status.keyvalid = true) :
    Inv (startCall sz s) :=
  h.withWork hsz hk (W := freshWork sz s) ⟨gridValid_copy _ (h.gridValid_key hsz hk), zero_valid sz⟩

theorem Inv.loadKey {s : State} (h : Inv s) {sz : GridSize} (hsz : s.config.size = some sz) {f : Nat → Sym}
    (hf : gridValid sz (storeCells sz.count f s.key)) : Inv (loadKey sz f s) :=
  { h with
    key_valid := fun _ => ⟨sz, hsz, hf⟩
    grid_has_key := fun _ => rfl }

theorem Inv.withObuf {s : State} (h : Inv s) {out : List Sym} (hn : out.length ≤ Config.bufDepth) :
    Inv { s with obuf := bufPutFrom s.obuf 0 out } :=
  { h with
    obuf_wf := bufPutFrom_wf _ _ _ h.obuf_wf
    obuf_within := bufPutFrom_within h.obuf_within (by omega) }

theorem Inv.applyStep {s : State} (h : Inv s) (hf : s.status.fatal = false) {sz : GridSize} (hsz : s.config.size = some sz)
    (hg : s.status.gridvalid = true) {f : Work → Sym → Option (Work × Sym)} (hstep : stepKeepsWork sz f) (v : Sym) :
    Inv (applyStep f v s) := by
  rcases applyStep_cases f v s with ⟨-, e⟩ | ⟨W, y, hW, e⟩ <;> rw [e]
  · exact h.fatalInStep
  · exact Inv.succeed { h.overWork hsz (hstep (h.work hsz hg) hW) with } hf

theorem Inv.runMessage {s : State} (h : Inv s) (hf : s.status.fatal = false) {sz : GridSize} (hsz : s.config.size = some sz)
    (hk : s.status.keyvalid = true) {run : Work → Option (Work × List Sym)} (hrun : runKeepsWork sz (input s).length run)
    {olen : Count} (hn : olen.toNat ≤ Config.bufDepth) : Inv (runMessage sz run olen s) := by
  rcases runMessage_cases sz run olen s with ⟨-, e⟩ | ⟨W, out, hW, e⟩ <;> rw [e]
  · exact h.fatalInMessage
  · have hfresh : workValid sz (freshWork sz s) := ⟨gridValid_copy _ (h.gridValid_key hsz hk), zero_valid sz⟩
    obtain ⟨hW', hlen⟩ := hrun hfresh hW
    have hout : out.length ≤ Config.bufDepth := hlen.trans (input_length s ▸ h.len_le)
    exact ((((h.withWork hsz hk hW').withObuf hout).withOlen hn).withIdx h.len_le).succeed hf

/-! ### The invariant under each command -/

/-- A configured command keeps the invariant when its part after check 2 of R224 does. -/
theorem Inv.configured {s t : State} (h : Inv s) (hf : s.status.fatal = false) {k : GridSize → State}
    (hk : ∀ sz, s.config.size = some sz → Inv (k sz)) (ht : configured s k = .next t) : Inv t := by
  rcases configured_cases ht with ⟨-, rfl⟩ | ⟨sz, hsz, rfl⟩
  · exact h.fail hf _ _
  · exact hk sz hsz

/-- After the check of DECN the output length is a difference that does not wrap (log entry 10). -/
theorem Inv.len_sub_nlen_le {s : State} (h : Inv s) (hle : ¬ s.len.toNat < s.nlen.toNat) : (s.len - s.nlen).toNat ≤ Config.bufDepth := by
  have hlen := h.len_le
  have hsub : (s.len - s.nlen).toNat = s.len.toNat - s.nlen.toNat := BitVec.toNat_sub_of_le (BitVec.le_def.2 (by omega))
  omega

section
variable {s t : State} (h : Inv s) (hf : s.status.fatal = false)
include h hf

theorem Inv.execInit (ht : execInit s = .next t) : Inv t := by
  refine h.configured hf (fun sz hsz => ?_) ht
  split
  next => exact h.fail hf _ _
  next hk => exact (h.startCall hsz (by simpa using hk)).succeed hf

theorem Inv.execKeylit (ht : execKeylit s = .next t) : Inv t := by
  refine h.configured hf (fun sz hsz => ?_) ht
  dsimp only
  split
  next hc =>
    have hload := h.loadKey hsz (gridValid_of_keycheck s.key hc)
    exact ((hload.startCall hsz rfl).withIdx h.len_le).succeed hf
  next => exact h.failKeyInput hf _ _

theorem Inv.execKeydrv (ht : execKeydrv s = .next t) : Inv t := by
  refine h.configured hf (fun sz hsz => ?_) ht
  dsimp only
  split
  next =>
    have hload := h.loadKey hsz (gridValid_copy s.key (gridValid_derive sz (input s)))
    exact ((hload.startCall hsz rfl).withIdx h.len_le).succeed hf
  next => exact h.failKeyInput hf _ _

theorem Inv.execChkkey (ht : execChkkey s = .next t) : Inv t := by
  refine h.configured hf (fun sz hsz => ?_) ht
  dsimp only
  split
  next => exact (h.withIdx h.len_le).succeed hf
  next => exact h.failKeyInput hf _ _

theorem Inv.execChkmsg {kind : BitVec 2} (ht : execChkmsg kind s = .next t) : Inv t := by
  refine h.configured hf (fun sz hsz => ?_) ht
  split
  next => exact h.fail hf _ _
  next =>
    dsimp only
    split
    next => exact (h.withIdx h.len_le).succeed hf
    next => exact h.failKeyInput hf _ _

theorem Inv.execSymat {row col : BitVec 3} (ht : execSymat row col s = .next t) : Inv t := by
  refine h.configured hf (fun sz hsz => ?_) ht
  split
  next => exact h.fail hf _ _
  next =>
    split
    next => exact h.fail hf _ _
    next => exact Inv.succeed { h with } hf

theorem Inv.execPosof {v : Sym} (ht : execPosof v s = .next t) : Inv t := by
  refine h.configured hf (fun sz hsz => ?_) ht
  split
  next => exact h.fail hf _ _
  next =>
    split
    next => exact h.fatal
    next => exact Inv.succeed { h with } hf

theorem Inv.execRotr {m : Bool} {line : BitVec 3} {n : Int} (ht : execRotr m line n s = .next t) : Inv t := by
  refine h.configured hf (fun sz hsz => ?_) ht
  split
  next => exact h.fail hf _ _
  next =>
    split
    next => exact h.fail hf _ _
    next hg =>
      obtain ⟨hgrid, hmarker⟩ := h.work hsz (by simpa using hg)
      refine (h.overWork hsz (W := ⟨_, _⟩) ⟨gridValid_rotr _ n hgrid, ?_⟩).succeed hf
      cases m with
      | true => exact mkr_valid _ n hmarker
      | false => exact hmarker

theorem Inv.execRotc {m : Bool} {line : BitVec 3} {n : Int} (ht : execRotc m line n s = .next t) : Inv t := by
  refine h.configured hf (fun sz hsz => ?_) ht
  split
  next => exact h.fail hf _ _
  next =>
    split
    next => exact h.fail hf _ _
    next hg =>
      obtain ⟨hgrid, hmarker⟩ := h.work hsz (by simpa using hg)
      refine (h.overWork hsz (W := ⟨_, _⟩) ⟨gridValid_rotc _ n hgrid, ?_⟩).succeed hf
      cases m with
      | true => exact mkc_valid _ n hmarker
      | false => exact hmarker

theorem Inv.execMkadv {v : Sym} (ht : execMkadv v s = .next t) : Inv t := by
  refine h.configured hf (fun sz hsz => ?_) ht
  split
  next => exact h.fail hf _ _
  next =>
    split
    next => exact h.fail hf _ _
    next hg =>
      obtain ⟨hgrid, -⟩ := h.work hsz (by simpa using hg)
      exact (h.overWork hsz (W := ⟨s.grid, _⟩) ⟨hgrid, padd_valid sz _ _⟩).succeed hf

theorem Inv.execEnc1 {v : Sym} (ht : execEnc1 v s = .next t) : Inv t := by
  refine h.configured hf (fun sz hsz => ?_) ht
  split
  next => exact h.fail hf _ _
  next hg =>
    split
    next => exact h.fail hf _ _
    next => exact h.applyStep hf hsz (by simpa using hg) (encstep_keeps sz _) v

theorem Inv.execDec1 {v : Sym} (ht : execDec1 v s = .next t) : Inv t := by
  refine h.configured hf (fun sz hsz => ?_) ht
  split
  next => exact h.fail hf _ _
  next hg =>
    split
    next => exact h.fail hf _ _
    next => exact h.applyStep hf hsz (by simpa using hg) (decstep_keeps sz _) v

theorem Inv.execEnc (ht : execEnc s = .next t) : Inv t := by
  refine h.configured hf (fun sz hsz => ?_) ht
  split
  next => exact h.fail hf _ _
  next hk =>
    dsimp only
    split
    next => exact h.runMessage hf hsz (by simpa using hk) (foldSteps_keeps (encstep_keeps sz _) _) h.len_le
    next => exact h.failMessageInput hf _ _

theorem Inv.execDec (ht : execDec s = .next t) : Inv t := by
  refine h.configured hf (fun sz hsz => ?_) ht
  split
  next => exact h.fail hf _ _
  next hk =>
    dsimp only
    split
    next => exact h.runMessage hf hsz (by simpa using hk) (foldSteps_keeps (decstep_keeps sz _) _) h.len_le
    next => exact h.failMessageInput hf _ _

theorem Inv.execEncn (ht : execEncn s = .next t) : Inv t := by
  refine h.configured hf (fun sz hsz => ?_) ht
  split
  next => exact h.fail hf _ _
  next =>
    split
    next => exact h.fail hf _ _
    next hk =>
      dsimp only
      split
      next => exact h.failMessageInput hf _ _
      next =>
        split
        next => exact h.failMessageInput hf _ _
        next => exact h.runMessage hf hsz (by simpa using hk) (encryptWithNonce_keeps sz _ _ _ _) h.len_le

theorem Inv.execDecn (ht : execDecn s = .next t) : Inv t := by
  refine h.configured hf (fun sz hsz => ?_) ht
  split
  next => exact h.fail hf _ _
  next hle =>
    split
    next => exact h.fail hf _ _
    next hk =>
      split
      next => exact h.failMessageInput hf _ _
      next => exact h.runMessage hf hsz (by simpa using hk) (decryptWithNonce_keeps sz _ _ _ _) (h.len_sub_nlen_le hle)

/-- Every command keeps the invariant. -/
theorem Inv.exec {i : Instr} (ht : exec i s = .next t) : Inv t := by
  cases i with
  | init => exact h.execInit hf ht
  | keylit => exact h.execKeylit hf ht
  | keydrv => exact h.execKeydrv hf ht
  | chkkey => exact h.execChkkey hf ht
  | chkmsg kind => exact h.execChkmsg hf ht
  | symat row col => exact h.execSymat hf ht
  | posof v => exact h.execPosof hf ht
  | rotr m line n => exact h.execRotr hf ht
  | rotc m line n => exact h.execRotc hf ht
  | mkadv v => exact h.execMkadv hf ht
  | enc1 v => exact h.execEnc1 hf ht
  | dec1 v => exact h.execDec1 hf ht
  | enc => exact h.execEnc hf ht
  | dec => exact h.execDec hf ht
  | encn => exact h.execEncn hf ht
  | decn => exact h.execDecn hf ht

theorem Inv.complete (ht : complete s = .next t) : Inv t := by
  rcases complete_cases ht with ⟨-, rfl⟩ | ⟨i, -, hi⟩
  · exact h.fail hf _ _
  · exact h.exec hf hi

end

/-! ### The invariant under each event -/

/-- A busy engine is not in the fatal state (60_exceptions R221). -/
theorem Inv.fatal_of_busy {s : State} (h : Inv s) (hb : s.status.busy = true) : s.status.fatal = false := by
  by_contra hf
  have := (h.fatal_ok (by simpa using hf)).1
  simp [hb] at this

theorem Inv.engineTurn {s t : State} (h : Inv s) (ht : engineTurn s = .next t) : Inv t := by
  cases hb : s.status.busy with
  | true => exact h.complete (h.fatal_of_busy hb) (engineTurn_busy hb ▸ ht)
  | false =>
    rw [engineTurn_idle hb] at ht
    cases ht
    exact h

theorem Inv.refuse {s : State} (h : Inv s) : Inv (refuse s) := { h with }

theorem Inv.accept {s : State} (h : Inv s) (hf : s.status.fatal = false) (w : Word) : Inv (accept w s) :=
  { h with
    fatal_ok := fun hf' => absurd hf' (by simp [hf])
    busy_ok := fun _ => rfl }

theorem Inv.writeConfig {s : State} (h : Inv s) (c : ConfigReg) : Inv (writeConfig c s) :=
  { h with
    key_valid := fun hk => by
      by_cases hc : c.size = s.config.size
      · exact hc ▸ h.key_valid (by simpa [hc] using hk)
      · simp [hc] at hk
    grid_valid := nofun
    grid_has_key := nofun }

theorem Inv.writeStatus {s : State} (h : Inv s) (w : Word) : Inv (writeStatus w s) :=
  { h with busy_ok := fun hb => by simp [h.busy_ok (show s.status.busy = true from hb)] }

/-- A length that the host may write keeps its value in 13 bits. -/
theorem toNat_ofNat_of_le_bufDepth {n : Nat} (h : n ≤ Config.bufDepth) : (BitVec.ofNat 13 n).toNat = n := by
  have := Config.bufDepth_le
  exact Nat.mod_eq_of_lt (by omega)

/-- At reset nothing is valid, no report stands and the buffers are empty (10_state R48). -/
theorem inv_reset : Inv State.reset where
  key_valid := nofun
  grid_valid := nofun
  grid_has_key := nofun
  err_iff := by decide
  flags_ok := by decide
  code_known := .inl (by decide)
  fatal_ok := nofun
  busy_ok := nofun
  len_le := Nat.zero_le _
  nlen_le := Nat.zero_le _
  olen_le := Nat.zero_le _
  idx_le := Nat.zero_le _
  ibuf_wf := .nil
  obuf_wf := .nil
  ibuf_within := nofun
  obuf_within := nofun

/-- A hard reset establishes the invariant in every state. -/
theorem inv_hardReset (s : State) : Inv (hardReset s) := { inv_reset with }

theorem Inv.softReset {s : State} (h : Inv s) : Inv (softReset s) :=
  { inv_reset with
    ibuf_wf := h.ibuf_wf
    obuf_wf := h.obuf_wf
    ibuf_within := h.ibuf_within
    obuf_within := h.obuf_within }

/-- However a write to a mapped address ends, it keeps the invariant. -/
theorem Inv.writeEnding {s t : State} (h : Inv s) {a : Addr} {r : Reg} (hm : mapped a = some r) (he : WriteEnding r s t) : Inv t := by
  cases he with
  | refused => exact h.refuse
  | nothing => exact h
  | reset => exact h.softReset
  | config c w' _ => exact h.writeConfig c
  | status w' => exact h.writeStatus w'
  | ien e => exact { h with }
  | accepted w' hf => exact h.accept hf w'
  | len w' hn => exact { h with len_le := (toNat_ofNat_of_le_bufDepth hn).trans_le hn }
  | nlen w' hn => exact { h with nlen_le := (toNat_ofNat_of_le_bufDepth hn).trans_le hn }
  | ibuf k w' _ hr =>
    subst hr
    exact { h with
      ibuf_wf := bufPut_wf _ _ _ h.ibuf_wf
      ibuf_within := bufPut_within _ h.ibuf_within (mapped_ibuf hm).1 }

theorem Inv.busWrite {s : State} (h : Inv s) (a : Addr) (w : Word) : Inv (busWrite a w s) := by
  rcases busWrite_cases a w s with ⟨-, e⟩ | ⟨-, -, e⟩ | ⟨r, -, hm, e⟩ <;> rw [e]
  · exact h.refuse
  · exact h.refuse
  · exact h.writeEnding hm (writeReg_ending w s r)

theorem Inv.busRead {s : State} (h : Inv s) (a : Addr) : Inv (busRead a s) := by
  rcases busRead_cases a s with ⟨-, e⟩ | ⟨r, -, -, -, e⟩ | ⟨r, -, -, e⟩ <;> rw [e]
  · exact { h with }
  · exact { h with }
  · exact { h with }

theorem Inv.handle {s t : State} (h : Inv s) {e : Event} (ht : handle e s = .next t) : Inv t := by
  cases e with
  | read a => cases ht; exact h.busRead a
  | write a w => cases ht; exact h.busWrite a w
  | hardReset => cases ht; exact inv_hardReset s
  | engine => exact h.engineTurn ht

/-- Settles O12: the first event of the agenda keeps the invariant, and with an empty agenda the engine's turn does. -/
theorem stepKeepsTheInvariant : Obligations.StepKeepsTheInvariant := by
  intro s t h ht
  cases ha : s.agenda with
  | nil => exact h.engineTurn (step_nil ha ▸ ht)
  | cons e rest => exact (h.withAgenda rest).handle (step_cons ha ▸ ht)

/-- Settles O13. -/
theorem resetSatisfiesTheInvariant : Obligations.ResetSatisfiesTheInvariant := inv_reset

end Sys2Proof.Machine

namespace Sys2Proof.Machine

open Sys2Proof.Claims

/-! ### Host accesses to an idle block -/

/-- The event a block faces happens, and the rest of the agenda stays. -/
theorem step_facing (s : State) (e : Event) (rest : List Event) :
    step (facing s e rest) = handle e { s with agenda := rest } := rfl

/-- A read of a mapped register of an idle block. -/
theorem step_read_idle {s : State} {a : Addr} {r : Reg} (rest : List Event) (hb : s.status.busy = false)
    (hm : mapped a = some r) :
    step (facing s (.read a) rest) = .next { s with agenda := rest, rdata := readReg { s with agenda := rest } r } := by
  rw [step_facing, handle, busRead, hm]
  simp [hb]

/-- A read of a register that is readable while busy (20_memory R72). -/
theorem step_read_always {a : Addr} {r : Reg} (s : State) (rest : List Event) (hr : readableWhileBusy r = true)
    (hm : mapped a = some r) :
    step (facing s (.read a) rest) = .next { s with agenda := rest, rdata := readReg { s with agenda := rest } r } := by
  rw [step_facing, handle, busRead, hm]
  simp [hr]

/-- A write to a mapped register of an idle block. -/
theorem step_write_idle {s : State} {a : Addr} {r : Reg} (w : Word) (rest : List Event) (hb : s.status.busy = false)
    (hm : mapped a = some r) :
    step (facing s (.write a w) rest) = .next (writeReg w { s with agenda := rest } r) := by
  rw [step_facing, handle, busWrite, hm]
  simp [hb]

/-- Every write to a busy block is refused (20_memory R72). -/
theorem step_write_busy {s : State} (a : Addr) (w : Word) (rest : List Event) (hb : s.status.busy = true) :
    step (facing s (.write a w) rest) = .next (refuse { s with agenda := rest }) := by
  rw [step_facing, handle, busWrite, if_pos hb]

/-! ### Addresses of the windows and of `IBUF` (20_memory R64) -/

theorem mapped_key {k : Nat} (h : k < 64) : mapped (BitVec.ofNat 14 (0x0040 + k)) = some (.key k) := by
  have ha : (BitVec.ofNat 14 (0x0040 + k)).toNat = 0x40 + k := Nat.mod_eq_of_lt (by omega)
  simp only [mapped, ha]
  rw [if_neg (by omega), if_pos (by omega), Nat.add_sub_cancel_left]

theorem mapped_grid {k : Nat} (h : k < 64) : mapped (BitVec.ofNat 14 (0x0080 + k)) = some (.grid k) := by
  have ha : (BitVec.ofNat 14 (0x0080 + k)).toNat = 0x80 + k := Nat.mod_eq_of_lt (by omega)
  simp only [mapped, ha]
  rw [if_neg (by omega), if_neg (by omega), if_pos (by omega), Nat.add_sub_cancel_left]

theorem mapped_ibuf_element {k : Nat} (h : k < Config.bufDepth) : mapped (BitVec.ofNat 14 (0x1000 + k)) = some (.ibuf k) := by
  have hd := Config.bufDepth_le
  have ha : (BitVec.ofNat 14 (0x1000 + k)).toNat = 0x1000 + k := Nat.mod_eq_of_lt (by omega)
  simp only [mapped, ha]
  rw [if_neg (by omega), if_neg (by omega), if_neg (by omega), if_neg (by omega), if_pos (by omega),
    if_pos ((Config.fits_iff _).2 (by omega)), Nat.add_sub_cancel_left]

/-! ### Words that the host reads -/

/-- Every bit of `STATUS` (10_state R28): the seven flags, and zeros above. -/
theorem getLsbD_statusWord (t : StatusReg) (i : Nat) : (statusWord t).getLsbD i =
    [t.busy, t.done, t.err, t.fatal, t.keyvalid, t.gridvalid, t.buserr].getD i false := by
  simp only [statusWord, BitVec.getLsbD_append, BitVec.getLsbD_ofBool, BitVec.getLsbD_zero]
  rcases i with _ | _ | _ | _ | _ | _ | _ | i <;> simp

/-- Every bit of `IEN` (R30): the three enables, and zeros above. -/
theorem getLsbD_ienWord (e : IenReg) (i : Nat) : (ienWord e).getLsbD i = [e.doneIe, e.errIe, e.fatalIe].getD i false := by
  simp only [ienWord, BitVec.getLsbD_append, BitVec.getLsbD_ofBool, BitVec.getLsbD_zero]
  rcases i with _ | _ | _ | i <;> simp

theorem toNat_capWord : capWord.toNat = Config.bufDepth := by
  have := Config.bufDepth_le
  exact Nat.mod_eq_of_lt (by omega)

/-- A position is shown as `row << 8 | col` (10_state R37, R40). -/
theorem toNat_posWord (p : Pos) : (posWord p).toNat = p.row.toNat * 256 + p.col.toNat := by
  have hr := p.row.isLt
  have hc := p.col.isLt
  simp only [posWord, BitVec.toNat_append]
  rw [← Nat.shiftLeft_add_eq_or_of_lt hc, Nat.shiftLeft_eq]
  simp [Nat.shiftLeft_eq]
  omega

/-- The two words of a finding set make up the set (10_state R42). -/
theorem lowWord_highWord (v : SymSet) : (lowWord v).toNat + 2 ^ 32 * (highWord v).toNat = v.toNat := by
  have := v.isLt
  simp only [lowWord, highWord, BitVec.extractLsb'_toNat, Nat.shiftRight_eq_div_pow]
  omega

/-- A window word of a valid grid is the cell (10_state R38, R39). -/
theorem toNat_windowWord {s : State} {sz : GridSize} (G : Grid) {k : Nat} (hsz : s.config.size = some sz) (hk : k < sz.count) :
    (windowWord true s G k).toNat = (cell G k).toNat := by
  rw [windowWord, if_pos ⟨rfl, by rw [visibleCells, hsz]; exact hk⟩]
  exact BitVec.toNat_setWidth_of_le (by decide)

theorem windowWord_invalid (s : State) (G : Grid) (k : Nat) : windowWord false s G k = 0 := by simp [windowWord]

/-- A window shows nothing from `N` on (20_memory R71). -/
theorem windowWord_high {s : State} {sz : GridSize} (valid : Bool) (G : Grid) {k : Nat} (hsz : s.config.size = some sz)
    (hk : sz.count ≤ k) : windowWord valid s G k = 0 := by
  rw [windowWord, visibleCells, hsz, if_neg (by simp only; omega)]

/-! ### Words that the host writes -/

/-- A word of `CONFIG` in numbers (10_state R26). -/
theorem toNat_configWord (sz : GridSize) (mmode nmode : Bool) :
    (configWord ⟨some sz, if mmode then .coRotating else .stationary, if nmode then .modeB else .modeA⟩).toNat
      = sz.side + (if mmode then 256 else 0) + (if nmode then 512 else 0) := by
  cases sz <;> cases mmode <;> cases nmode <;> rfl

/-- The word of a configured register is legal and gives the register back (R26). -/
theorem configOfWord_configWord (sz : GridSize) (mmode : MarkerMode) (nmode : NonceMode) :
    configOfWord (configWord ⟨some sz, mmode, nmode⟩) = some ⟨some sz, mmode, nmode⟩ := by
  cases sz <;> cases mmode <;> cases nmode <;> rfl

/-- A legal length reads back as it was written (R32, R33). -/
theorem zeroExtend_ofNat_length {w : Word} (h : w.toNat ≤ Config.bufDepth) :
    (BitVec.ofNat 13 w.toNat).zeroExtend 32 = w := by
  apply BitVec.eq_of_toNat_eq
  rw [BitVec.zeroExtend_eq_setWidth, BitVec.toNat_setWidth_of_le (by decide), toNat_ofNat_of_le_bufDepth h]

/-- A legal `IEN` word has no bit but the three enables (R30). -/
theorem getLsbD_of_le_seven {w : Word} (h : w.toNat ≤ 7) {i : Nat} (hi : 3 ≤ i) : w.getLsbD i = false :=
  Nat.testBit_lt_two_pow ((Nat.lt_succ_of_le h).trans_le (Nat.pow_le_pow_right Nat.two_pos hi))

/-- A legal `IEN` write stores the three bits (R30). -/
theorem writeIen_legal {w : Word} (s : State) (h : w.toNat ≤ 7) :
    writeIen w s = { s with ien := ⟨w.getLsbD 0, w.getLsbD 1, w.getLsbD 2⟩ } := by
  refine if_pos (BitVec.eq_of_getLsbD_eq fun i hi => ?_)
  simp [BitVec.getLsbD_extractLsb', getLsbD_of_le_seven h (i := 3 + i) (by omega)]

/-- A legal `IEN` word reads back as it was written. -/
theorem ienWord_bits {w : Word} (h : w.toNat ≤ 7) : ienWord ⟨w.getLsbD 0, w.getLsbD 1, w.getLsbD 2⟩ = w := by
  refine BitVec.eq_of_getLsbD_eq fun i _ => ?_
  rw [getLsbD_ienWord]
  match i with
  | 0 | 1 | 2 => rfl
  | i + 3 => exact (getLsbD_of_le_seven h (by omega)).symm

/-- A code that the host may write keeps its value in 6 bits (R43). -/
theorem toNat_ofNat_code {w : Word} (h : w.toNat ≤ 63) : (BitVec.ofNat 6 w.toNat).toNat = w.toNat :=
  Nat.mod_eq_of_lt (by omega)

/-- The elements of `IBUF` after a write to one of them (R43). -/
theorem ibufAt_bufPut {s : State} (h : s.ibuf.wf) (k : Nat) (v : Sym) (j : Nat) :
    ibufAt { s with ibuf := bufPut s.ibuf k v } j = if j = k then v else ibufAt s j := by
  simp only [ibufAt, bufFind_bufPut _ _ _ _ h]
  split <;> rfl

/-! ### The obligations on resets and on the register interface -/

@[simp] theorem cell_reset_key (k : Nat) : cell State.reset.key k = 0 := by
  by_cases h : k < 64 <;> simp [cell, State.reset, h]

@[simp] theorem cell_reset_grid (k : Nat) : cell State.reset.grid k = 0 := cell_reset_key k

/-- Settles O17: the write of 1 to `CTRL` is `softReset` while idle and refused while busy. -/
theorem softResetErasesTheKey : Obligations.SoftResetErasesTheKey := by
  refine fun s rest => ⟨fun hb => ?_, step_write_busy _ _ rest⟩
  refine ⟨softReset { s with agenda := rest }, step_write_idle 1 rest hb (r := .ctrl) rfl, ?_⟩
  refine ⟨rfl, rfl, rfl, rfl, rfl, rfl, rfl, rfl, rfl, rfl, rfl, rfl, rfl, rfl, fun k _ => ?_, fun k => ?_⟩
  · exact ⟨cell_reset_key k, cell_reset_grid k⟩
  · exact ⟨ibufAt_congr rfl rfl k, obufAt_congr rfl rfl k⟩

/-- Settles O22: each result register by the lemma on its word. -/
theorem resultRegistersRead : Obligations.ResultRegistersRead := by
  intro s
  have hmarker : (readReg s .marker).toNat
      = if s.status.gridvalid = true then s.marker.row.toNat * 256 + s.marker.col.toNat else 0 := by
    rw [readReg]
    split
    · exact toNat_posWord s.marker
    · rfl
  have hecode := BitVec.toNat_setWidth_of_le (b := s.ecode) (w' := 32) (by decide)
  have hsym := fun x : Sym => BitVec.toNat_setWidth_of_le (b := x) (w' := 32) (by decide)
  have hcount := fun x : Count => BitVec.toNat_setWidth_of_le (b := x) (w' := 32) (by decide)
  exact ⟨hecode, rfl, hcount s.len, hcount s.nlen, hcount s.olen, hcount s.idx, hsym s.rsym, toNat_posWord s.rpos, hmarker,
    lowWord_highWord s.find.ill, lowWord_highWord s.find.miss, lowWord_highWord s.find.dup,
    fun k => ⟨hsym (ibufAt s k), hsym (obufAt s k)⟩⟩

/-- Settles O23: the words of the two windows, by whether the grid is valid and the element below `N`. -/
theorem windowsShowValidGridsOnly : Obligations.WindowsShowValidGridsOnly := by
  intro s k rest hk hb
  refine ⟨_, _, step_read_idle rest hb (mapped_key hk), step_read_idle rest hb (mapped_grid hk), ?_, ?_, ?_, ?_⟩
  · refine fun sz hsz hlt => ⟨fun hv => ?_, fun hv => ?_⟩
    · simpa [readReg, hv] using toNat_windowWord s.key (s := { s with agenda := rest }) hsz hlt
    · simpa [readReg, hv] using toNat_windowWord s.grid (s := { s with agenda := rest }) hsz hlt
  · intro hv; simp [readReg, hv, windowWord_invalid]
  · intro hv; simp [readReg, hv, windowWord_invalid]
  · exact fun sz hsz hle => ⟨windowWord_high _ _ hsz hle, windowWord_high _ _ hsz hle⟩

/-- Settles O24: the word is that of the register it is stored as, and a word of a configured register is legal. -/
theorem configWriteDiscardsTheWorkingState : Obligations.ConfigWriteDiscardsTheWorkingState := by
  intro s sz mmode nmode w rest hb hw
  obtain rfl : w = configWord ⟨some sz, if mmode then .coRotating else .stationary, if nmode then .modeB else .modeA⟩ :=
    BitVec.eq_of_toNat_eq (hw.trans (toNat_configWord sz mmode nmode).symm)
  refine ⟨_, step_write_idle _ rest hb (r := .config) rfl, ?_, ?_⟩
  · simp only [writeReg, configOfWord_configWord, writeConfig]
    by_cases hs : s.config.size = some sz <;> simp [hs, eq_comm]
  · simp only [writeReg, configOfWord_configWord, readReg, writeConfig_config]

/-- Settles O25. -/
theorem plainRegisterWrites : Obligations.PlainRegisterWrites := by
  intro s w rest hb
  refine ⟨fun hw => ⟨?_, ?_⟩, fun hw => ?_, ?_⟩
  · refine ⟨{ s with agenda := rest, len := BitVec.ofNat 13 w.toNat }, ?_, rfl, toNat_ofNat_of_le_bufDepth hw,
      zeroExtend_ofNat_length hw⟩
    rw [step_write_idle w rest hb (r := .len) rfl, writeReg, if_pos ((Config.fits_iff _).2 hw)]
  · refine ⟨{ s with agenda := rest, nlen := BitVec.ofNat 13 w.toNat }, ?_, rfl, toNat_ofNat_of_le_bufDepth hw,
      zeroExtend_ofNat_length hw⟩
    rw [step_write_idle w rest hb (r := .nlen) rfl, writeReg, if_pos ((Config.fits_iff _).2 hw)]
  · refine ⟨_, ?_, rfl, ienWord_bits hw⟩
    rw [step_write_idle w rest hb (r := .ien) rfl, writeReg, writeIen_legal _ hw]
  · rw [step_write_idle w rest hb (r := .status) rfl, writeReg, writeStatus]
    cases w.getLsbD 1 <;> cases w.getLsbD 6 <;> simp

/-- Settles O26: the write is `bufPut`, whose elements are known, and the read gives the element. -/
theorem inputBufferReadAfterWrite : Obligations.InputBufferReadAfterWrite := by
  intro s k w rest hb hwf hk hw
  have hm := mapped_ibuf_element hk
  have hat := ibufAt_bufPut (s := { s with agenda := rest }) hwf k (BitVec.ofNat 6 w.toNat)
  have hread : (ibufAt { s with agenda := rest, ibuf := bufPut s.ibuf k (BitVec.ofNat 6 w.toNat) } k).toNat = w.toNat := by
    rw [hat, if_pos rfl, toNat_ofNat_code hw]
  refine ⟨{ s with agenda := rest, ibuf := bufPut s.ibuf k (BitVec.ofNat 6 w.toNat) }, ?_, rfl, hread, fun j hj => ?_,
    bufPut_wf _ _ _ hwf, _, step_read_idle rest hb hm, BitVec.eq_of_toNat_eq ?_⟩
  · rw [step_write_idle w rest hb hm, writeReg, if_pos hw]
  · rw [hat, if_neg hj]; rfl
  · exact (BitVec.toNat_setWidth_of_le (by decide)).trans hread

/-- Settles O16: the event is `hardReset`, whatever the state. -/
theorem hardResetFromAnyState : Obligations.HardResetFromAnyState := by
  refine fun s rest => ⟨hardReset { s with agenda := rest }, rfl, ?_⟩
  refine ⟨rfl, rfl, rfl, rfl, rfl, rfl, rfl, rfl, rfl, rfl, rfl, rfl, rfl, rfl, rfl, fun k _ => ?_⟩
  exact ⟨windowWord_invalid _ _ k, windowWord_invalid _ _ k⟩

/-- Settles O21: the three registers are readable while busy, and their words are known bit by bit. -/
theorem identificationAndStatusRead : Obligations.IdentificationAndStatusRead := by
  refine ⟨Config.minBufDepth_le, Config.bufDepth_le, fun s rest => ⟨?_, ?_, ?_⟩⟩
  · exact step_read_always s rest (r := .id) rfl rfl
  · exact ⟨_, step_read_always s rest (r := .cap) rfl rfl, rfl, toNat_capWord⟩
  · have hbit := getLsbD_statusWord s.status
    exact ⟨_, step_read_always s rest (r := .status) rfl rfl, rfl, hbit 0, hbit 1, hbit 2, hbit 3, hbit 4, hbit 5, hbit 6,
      fun i hi => (hbit i).trans (List.getD_eq_default _ _ hi)⟩

/-- Settles O27: the bits of `IEN` and `STATUS` that the host reads are the enables and the flags. -/
theorem interruptLevel : Obligations.InterruptLevel := by
  intro s
  simp only [readReg, getLsbD_ienWord, getLsbD_statusWord]
  simp [irq, or_assoc]

end Sys2Proof.Machine

namespace Sys2Proof.Machine

open Sys2Proof.Claims

/-! ### Host accesses to a busy block (20_memory R72, R73) -/

/-- What the host's accesses write while the engine is busy: `BUSERR` (20_memory R66), the word the last read returned (log
entry 4) and the count of unspecified words drawn (log entry 8). -/
structure HostSide where
  buserr : Bool
  rdata : Word
  draws : Nat

/-- `s` with those three fields as `p` says. -/
def withHostSide (p : HostSide) (s : State) : State :=
  { s with status := { s.status with buserr := p.buserr }, rdata := p.rdata, draws := p.draws }

@[simp] theorem withHostSide_config (p : HostSide) (s : State) : (withHostSide p s).config = s.config := rfl
@[simp] theorem withHostSide_len (p : HostSide) (s : State) : (withHostSide p s).len = s.len := rfl
@[simp] theorem withHostSide_nlen (p : HostSide) (s : State) : (withHostSide p s).nlen = s.nlen := rfl
@[simp] theorem withHostSide_grid (p : HostSide) (s : State) : (withHostSide p s).grid = s.grid := rfl
@[simp] theorem withHostSide_marker (p : HostSide) (s : State) : (withHostSide p s).marker = s.marker := rfl
@[simp] theorem input_withHostSide (p : HostSide) (s : State) : input (withHostSide p s) = input s := rfl

/-- Of a busy block a host access writes the host's side alone. -/
theorem handle_access_busy {s : State} {e : Event} (he : isAccess e) (hb : s.status.busy = true) :
    ∃ p, handle e s = .next (withHostSide p s) := by
  rcases he with ⟨a, rfl⟩ | ⟨a, w, rfl⟩
  · rcases busRead_cases a s with ⟨_, h⟩ | ⟨r, _, _, _, h⟩ | ⟨r, _, _, h⟩
    · exact ⟨⟨true, 0, s.draws⟩, congrArg _ h⟩
    · exact ⟨⟨s.status.buserr, Config.busyRead s.draws, s.draws + 1⟩, congrArg _ h⟩
    · exact ⟨⟨s.status.buserr, readReg s r, s.draws⟩, congrArg _ h⟩
  · exact ⟨⟨true, s.rdata, s.draws⟩, congrArg _ (if_pos hb)⟩

/-- So do any number of accesses before the engine's turn. -/
theorem run_accesses_busy {accesses : List Event} (hacc : ∀ e ∈ accesses, isAccess e) {s : State} (rest : List Event)
    (hb : s.status.busy = true) (hag : s.agenda = accesses ++ rest) :
    ∃ p, core.run accesses.length s = .next (withHostSide p { s with agenda := rest }) := by
  induction accesses generalizing s with
  | nil => exact ⟨⟨s.status.buserr, s.rdata, s.draws⟩, by subst hag; exact run_zero s⟩
  | cons e accesses ih =>
    obtain ⟨he, hacc⟩ := List.forall_mem_cons.1 hacc
    obtain ⟨q, hq⟩ := handle_access_busy (s := { s with agenda := accesses ++ rest }) he hb
    obtain ⟨p, hp⟩ := ih hacc (s := withHostSide q { s with agenda := accesses ++ rest }) hb rfl
    exact ⟨p, (run_succ accesses.length ((step_cons hag).trans hq)).trans hp⟩

/-! ### No command reads or writes the host's side -/

section
variable (p : HostSide)

/-- A check that does not look at the host's side, between two outcomes that keep it. -/
theorem ite_withHostSide {c : Prop} [Decidable c] {a a' b b' : State} (ha : a' = withHostSide p a) (hb : b' = withHostSide p b) :
    (if c then a' else b') = withHostSide p (if c then a else b) := by
  rw [ha, hb, apply_ite (withHostSide p)]

theorem configured_withHostSide {s : State} {k k' : GridSize → State} (h : ∀ sz, k' sz = withHostSide p (k sz)) :
    ∃ t, configured s k = .next t ∧ configured (withHostSide p s) k' = .next (withHostSide p t) := by
  cases hs : s.config.size with
  | none => exact ⟨_, configured_none hs k, configured_none (s := withHostSide p s) hs k'⟩
  | some sz => exact ⟨_, configured_some hs k, (configured_some (s := withHostSide p s) hs k').trans (congrArg _ (h sz))⟩

theorem applyStep_withHostSide (f : Work → Sym → Option (Work × Sym)) (v : Sym) (s : State) :
    applyStep f v (withHostSide p s) = withHostSide p (applyStep f v s) := by
  simp only [applyStep, withHostSide_grid, withHostSide_marker]
  cases f ⟨s.grid, s.marker⟩ v <;> rfl

theorem runMessage_withHostSide (sz : GridSize) (run : Work → Option (Work × List Sym)) (olen : Count) (s : State) :
    runMessage sz run olen (withHostSide p s) = withHostSide p (runMessage sz run olen s) := by
  have hf : (⟨(startCall sz (withHostSide p s)).grid, (startCall sz (withHostSide p s)).marker⟩ : Work)
      = ⟨(startCall sz s).grid, (startCall sz s).marker⟩ := rfl
  simp only [runMessage, hf]
  cases run ⟨(startCall sz s).grid, (startCall sz s).marker⟩ <;> rfl

/-- Every command completes, and its completion commutes with any change of the host's side. -/
theorem exec_withHostSide (i : Instr) (s : State) :
    ∃ t, exec i s = .next t ∧ exec i (withHostSide p s) = .next (withHostSide p t) := by
  cases i with
  | init => exact configured_withHostSide p fun _ => ite_withHostSide p rfl rfl
  | keylit => exact configured_withHostSide p fun _ => ite_withHostSide p rfl rfl
  | keydrv => exact configured_withHostSide p fun _ => ite_withHostSide p rfl rfl
  | chkkey => exact configured_withHostSide p fun _ => ite_withHostSide p rfl rfl
  | chkmsg kind =>
    refine configured_withHostSide p fun _ => ?_
    cases msgKind kind with
    | none => rfl
    | some k => exact ite_withHostSide p rfl rfl
  | symat row col => exact configured_withHostSide p fun _ => ite_withHostSide p rfl (ite_withHostSide p rfl rfl)
  | posof v =>
    refine configured_withHostSide p fun sz => ite_withHostSide p rfl ?_
    rw [withHostSide_grid]
    cases posof sz s.grid v <;> rfl
  | rotr m line n => exact configured_withHostSide p fun _ => ite_withHostSide p rfl (ite_withHostSide p rfl rfl)
  | rotc m line n => exact configured_withHostSide p fun _ => ite_withHostSide p rfl (ite_withHostSide p rfl rfl)
  | mkadv v => exact configured_withHostSide p fun _ => ite_withHostSide p rfl (ite_withHostSide p rfl rfl)
  | enc1 v =>
    exact configured_withHostSide p fun _ =>
      ite_withHostSide p rfl (ite_withHostSide p rfl (applyStep_withHostSide p _ v s))
  | dec1 v =>
    exact configured_withHostSide p fun _ =>
      ite_withHostSide p rfl (ite_withHostSide p rfl (applyStep_withHostSide p _ v s))
  | enc =>
    exact configured_withHostSide p fun sz =>
      ite_withHostSide p rfl (ite_withHostSide p (runMessage_withHostSide p sz _ _ s) rfl)
  | dec =>
    exact configured_withHostSide p fun sz =>
      ite_withHostSide p rfl (ite_withHostSide p (runMessage_withHostSide p sz _ _ s) rfl)
  | encn =>
    exact configured_withHostSide p fun sz =>
      ite_withHostSide p rfl (ite_withHostSide p rfl (ite_withHostSide p rfl (ite_withHostSide p rfl
        (runMessage_withHostSide p sz _ _ s))))
  | decn =>
    refine configured_withHostSide p fun sz => ite_withHostSide p rfl (ite_withHostSide p rfl ?_)
    simp only [withHostSide_config, withHostSide_len, withHostSide_nlen, input_withHostSide]
    cases wireCheck sz s.config.nmode s.nlen.toNat s.len.toNat (input s) with
    | none => exact runMessage_withHostSide p sz _ _ s
    | some blame => rfl

theorem complete_withHostSide (s : State) :
    ∃ t, complete s = .next t ∧ complete (withHostSide p s) = .next (withHostSide p t) := by
  cases hd : decode s.cmd with
  | error r => exact ⟨_, complete_error hd, complete_error (s := withHostSide p s) hd⟩
  | ok i =>
    rw [complete_ok hd, complete_ok (s := withHostSide p s) hd]
    exact exec_withHostSide p i s

end

/-- The engine's turn, when it is next, completes the command in flight. -/
theorem step_engine_busy {s : State} {rest : List Event} (hb : s.status.busy = true) (hag : s.agenda = .engine :: rest) :
    step s = complete { s with agenda := rest } :=
  (step_cons hag).trans (engineTurn_busy hb)

/-- Settles O9: the accesses change the host's side alone, and the completion commutes with that change. -/
theorem completionIgnoresInterleaving : Obligations.CompletionIgnoresInterleaving := by
  intro s accesses rest hb hacc
  obtain ⟨p, hrun⟩ := run_accesses_busy hacc (s := { s with agenda := accesses ++ .engine :: rest }) (.engine :: rest) hb rfl
  obtain ⟨u, hu, ht⟩ := complete_withHostSide p { s with agenda := rest }
  refine ⟨withHostSide p u, u, ?_, (step_engine_busy (s := facing s .engine rest) hb rfl).trans hu, rfl⟩
  exact (run_then hrun).trans ((step_engine_busy (s := withHostSide p (facing s .engine rest)) hb rfl).trans ht)

end Sys2Proof.Machine

namespace Sys2Proof.Machine

open Sys2Proof.Claims

/-! ### The address map, read backwards (20_memory R64) -/

/-- The word address of a register, window cell or buffer element (R64). -/
def Reg.addr : Reg → Nat
  | .id => 0x00
  | .cap => 0x01
  | .config => 0x02
  | .ctrl => 0x03
  | .status => 0x04
  | .ecode => 0x05
  | .ien => 0x06
  | .cmd => 0x07
  | .len => 0x08
  | .nlen => 0x09
  | .olen => 0x0A
  | .idx => 0x0B
  | .rsym => 0x0C
  | .rpos => 0x0D
  | .marker => 0x0E
  | .findIllLo => 0x10
  | .findIllHi => 0x11
  | .findMissLo => 0x12
  | .findMissHi => 0x13
  | .findDupLo => 0x14
  | .findDupHi => 0x15
  | .key k => 0x40 + k
  | .grid k => 0x80 + k
  | .ibuf k => 0x1000 + k
  | .obuf k => 0x2000 + k

/-- The element index is one the block has (10_state R38, R39, R43, R44). -/
def Reg.present : Reg → Prop
  | .key k => k < 64
  | .grid k => k < 64
  | .ibuf k => k < Config.bufDepth
  | .obuf k => k < Config.bufDepth
  | _ => True

/-- Which of the low addresses name a register. -/
theorem lowReg_isSome : ∀ n < 0x40, (lowReg n).isSome = true ↔ n ≤ 0x0E ∨ (0x10 ≤ n ∧ n ≤ 0x15) := by decide

/-- A low address is that of the register it names. -/
theorem addr_of_lowReg {n : Nat} {r : Reg} (h : lowReg n = some r) : r.present ∧ n = r.addr := by
  revert h
  unfold lowReg
  split <;> rintro ⟨⟩ <;> exact ⟨trivial, rfl⟩

/-- What an address names exists and lies at that address. -/
theorem addr_of_mapped {a : Addr} {r : Reg} (h : mapped a = some r) : r.present ∧ a.toNat = r.addr := by
  simp only [mapped, Config.fits_iff] at h
  split at h
  · exact addr_of_lowReg h
  all_goals
    repeat' split at h
    all_goals cases h
    all_goals simp only [Reg.addr, Reg.present]; omega

theorem mapped_obuf_element {k : Nat} (h : k < Config.bufDepth) : mapped (BitVec.ofNat 14 (0x2000 + k)) = some (.obuf k) := by
  have hd := Config.bufDepth_le
  have ha : (BitVec.ofNat 14 (0x2000 + k)).toNat = 0x2000 + k := Nat.mod_eq_of_lt (by omega)
  simp only [mapped, ha]
  rw [if_neg (by omega), if_neg (by omega), if_neg (by omega), if_neg (by omega), if_neg (by omega), if_pos (by omega),
    if_pos ((Config.fits_iff _).2 (by omega)), Nat.add_sub_cancel_left]

/-- What exists is named by its address. -/
theorem mapped_addr {r : Reg} (h : r.present) : mapped (BitVec.ofNat 14 r.addr) = some r := by
  cases r with
  | key k => exact mapped_key h
  | grid k => exact mapped_grid h
  | ibuf k => exact mapped_ibuf_element h
  | obuf k => exact mapped_obuf_element h
  | _ => rfl

theorem mapped_eq_some_iff {a : Addr} {r : Reg} : mapped a = some r ↔ r.present ∧ a.toNat = r.addr := by
  refine ⟨addr_of_mapped, fun ⟨hr, ha⟩ => ?_⟩
  rw [← mapped_addr hr, ← ha, BitVec.ofNat_toNat, BitVec.setWidth_eq]

/-- The addresses of R64 are the addresses of what exists. -/
theorem isMapped_iff_exists_addr {n : Nat} : isMapped n ↔ ∃ r : Reg, r.present ∧ n = r.addr := by
  constructor
  · rw [isMapped, ← or_assoc]
    rintro (hlow | hwin | hi | ho)
    · obtain ⟨r, hr⟩ := Option.isSome_iff_exists.1 ((lowReg_isSome n (by omega)).2 hlow)
      exact ⟨r, addr_of_lowReg hr⟩
    · rcases Nat.lt_or_ge n 0x80 with hk | hg
      · exact ⟨.key (n - 0x40), by simp only [Reg.present]; omega, by simp only [Reg.addr]; omega⟩
      · exact ⟨.grid (n - 0x80), by simp only [Reg.present]; omega, by simp only [Reg.addr]; omega⟩
    · exact ⟨.ibuf (n - 0x1000), by simp only [Reg.present]; omega, by simp only [Reg.addr]; omega⟩
    · exact ⟨.obuf (n - 0x2000), by simp only [Reg.present]; omega, by simp only [Reg.addr]; omega⟩
  · rintro ⟨r, hr, rfl⟩
    unfold isMapped
    cases r <;> simp only [Reg.present, Reg.addr] at hr ⊢ <;> omega

theorem isMapped_iff {a : Addr} : isMapped a.toNat ↔ ∃ r, mapped a = some r := by
  simp only [isMapped_iff_exists_addr, mapped_eq_some_iff]

theorem not_isMapped_iff {a : Addr} : ¬ isMapped a.toNat ↔ mapped a = none := by
  rw [isMapped_iff, ← Option.isSome_iff_exists, Option.not_isSome_iff_eq_none]

/-- Settles O18: each named address is that of its register, and the mapped addresses are those of what exists. -/
theorem addressMapIsTheTable : Obligations.AddressMapIsTheTable := by
  refine ⟨fun _ => isMapped_iff, ?_⟩
  iterate 21 refine ⟨rfl, ?_⟩
  exact ⟨fun k hk => ⟨mapped_key hk, mapped_grid hk⟩, fun k hk => ⟨mapped_ibuf_element hk, mapped_obuf_element hk⟩⟩

/-! ### Reads -/

/-- The registers that are readable while busy are `ID`, `CAP` and `STATUS` (20_memory R72). -/
theorem not_readableWhileBusy {a : Addr} {r : Reg} (hm : mapped a = some r) (h0 : a ≠ 0x0000) (h1 : a ≠ 0x0001)
    (h4 : a ≠ 0x0004) : readableWhileBusy r = false := by
  cases r with
  | id => exact absurd (BitVec.eq_of_toNat_eq (addr_of_mapped hm).2) h0
  | cap => exact absurd (BitVec.eq_of_toNat_eq (addr_of_mapped hm).2) h1
  | status => exact absurd (BitVec.eq_of_toNat_eq (addr_of_mapped hm).2) h4
  | _ => rfl

theorem busRead_unmapped {a : Addr} (s : State) (hm : mapped a = none) : busRead a s = refuse { s with rdata := 0 } := by
  rw [busRead, hm]

theorem busRead_unspecified {s : State} {a : Addr} {r : Reg} (hm : mapped a = some r) (hb : s.status.busy = true)
    (hr : readableWhileBusy r = false) :
    busRead a s = { s with rdata := Config.busyRead s.draws, draws := s.draws + 1 } := by
  rw [busRead, hm]
  exact if_pos ⟨hb, hr⟩

/-- Settles O20: the three cases of a read, each with its one outcome. -/
theorem readsHaveNoSideEffect : Obligations.ReadsHaveNoSideEffect := by
  refine fun s a rest => ⟨fun hm => ?_, fun hm hb => ?_, fun hm hb h0 h1 h4 => ?_⟩
  · exact congrArg _ (busRead_unmapped _ (not_isMapped_iff.1 hm))
  · obtain ⟨r, hr⟩ := isMapped_iff.1 hm
    exact ⟨r, hr, step_read_idle rest hb hr⟩
  · obtain ⟨r, hr⟩ := isMapped_iff.1 hm
    have hread := busRead_unspecified (s := { s with agenda := rest }) hr hb (not_readableWhileBusy hr h0 h1 h4)
    exact ⟨_, congrArg _ hread, rfl⟩

/-! ### Writes -/

/-- A write of `w` to a mapped register of an idle block is refused: the register is read-only, the value illegal, or the block
fatal (20_memory R66 cases 2, 3 and 5, per register). -/
def Reg.refuses (s : State) (w : Word) : Reg → Prop
  | .config => configOfWord w = none
  | .ctrl => w ≠ 1 ∧ w ≠ 0
  | .status => False
  | .ien => w.extractLsb' 3 29 ≠ 0
  | .cmd => s.status.fatal = true
  | .len => ¬ w.toNat ≤ Config.bufDepth
  | .nlen => ¬ w.toNat ≤ Config.bufDepth
  | .ibuf _ => ¬ w.toNat ≤ 63
  | _ => True

theorem writeReg_refused {s : State} {w : Word} {r : Reg} (h : r.refuses s w) : writeReg w s r = refuse s := by
  cases r with
  | config => rw [Reg.refuses] at h; rw [writeReg, h]
  | ctrl => exact (if_neg h.1).trans (if_neg h.2)
  | status => exact h.elim
  | ien => exact if_neg h
  | cmd => exact if_pos h
  | len => exact if_neg ((Config.fits_iff _).not.2 h)
  | nlen => exact if_neg ((Config.fits_iff _).not.2 h)
  | ibuf k => exact if_neg h
  | _ => rfl

/-- A write that is not refused does not set `BUSERR`. -/
theorem writeReg_buserr {s : State} {w : Word} {r : Reg} (h : ¬ r.refuses s w) (hbe : (writeReg w s r).status.buserr = true) :
    s.status.buserr = true := by
  cases r with
  | config =>
    obtain ⟨c, hc⟩ := Option.ne_none_iff_exists'.1 h
    rw [writeReg, hc] at hbe
    exact hbe
  | ctrl =>
    rw [writeReg, writeCtrl] at hbe
    split at hbe
    · cases hbe
    · rename_i h1
      rw [if_pos (by_contra fun h0 => h ⟨h1, h0⟩)] at hbe
      exact hbe
  | status => exact (Bool.and_eq_true_iff.1 hbe).1
  | ien => rw [writeReg, writeIen, if_pos (not_not.1 h)] at hbe; exact hbe
  | cmd => rw [writeReg, writeCmd, if_neg (show ¬ s.status.fatal = true from h)] at hbe; exact hbe
  | len => rw [writeReg, if_pos ((Config.fits_iff _).2 (not_not.1 h))] at hbe; exact hbe
  | nlen => rw [writeReg, if_pos ((Config.fits_iff _).2 (not_not.1 h))] at hbe; exact hbe
  | ibuf k => rw [writeReg, if_pos (not_not.1 h)] at hbe; exact hbe
  | _ => exact absurd trivial h

/-- An illegal word of `CONFIG`, field by field (10_state R26). -/
theorem configOfWord_eq_none_iff {w : Word} : configOfWord w = none ↔
    (w.extractLsb' 0 3 ≠ 6 ∧ w.extractLsb' 0 3 ≠ 7) ∨ w.extractLsb' 3 5 ≠ 0 ∨ w.extractLsb' 10 22 ≠ 0 := by
  by_cases hz : w.extractLsb' 3 5 = 0#5 ∧ w.extractLsb' 10 22 = 0#22
  · by_cases h6 : w.extractLsb' 0 3 = 6#3
    · simp [configOfWord, hz, h6]
    by_cases h7 : w.extractLsb' 0 3 = 7#3
    · simp [configOfWord, hz, h7]
    · simp [configOfWord, hz, h6, h7]
  · refine iff_of_true (if_neg hz) (.inr ?_)
    exact not_and_or.1 hz

/-- A word of `CTRL` with a bit above bit 0 (10_state R27). -/
theorem extractLsb'_ctrl_ne_zero_iff {w : Word} : w.extractLsb' 1 31 ≠ 0 ↔ w ≠ 1 ∧ w ≠ 0 := by
  have := w.isLt
  simp only [ne_eq, ← BitVec.toNat_inj, BitVec.extractLsb'_toNat, Nat.shiftRight_eq_div_pow, BitVec.ofNat_eq_ofNat,
    BitVec.toNat_ofNat]
  omega

/-- The illegal values of an element of `IBUF` (10_state R43). -/
theorem isIllegalValue_ibuf (w : Word) {k : Nat} (hk : k < Config.bufDepth) :
    isIllegalValue (0x1000 + k) w ↔ 63 < w.toNat := by
  constructor
  · rintro (⟨h, _⟩ | ⟨h, _⟩ | ⟨h, _⟩ | ⟨h, _⟩ | ⟨_, _, h⟩) <;> omega
  · exact fun h => .inr (.inr (.inr (.inr ⟨by omega, by omega, h⟩)))

/-- The cases of R66 at the address of a register of an idle block. -/
theorem isRefusedWrite_iff {s : State} {a : Addr} {r : Reg} (w : Word) (hb : s.status.busy = false) (hm : mapped a = some r) :
    isRefusedWrite s a.toNat w ↔ r.refuses s w := by
  obtain ⟨hr, ha⟩ := addr_of_mapped hm
  have hmapped := isMapped_iff.2 ⟨r, hm⟩
  simp only [isRefusedWrite, hb, hmapped, not_true_eq_false, Bool.false_eq_true, false_or]
  rw [ha]
  cases r with
  | config => simp [Reg.refuses, configOfWord_eq_none_iff, Reg.addr, isReadOnly, isIllegalValue]
  | ctrl =>
    rw [Reg.refuses, ← extractLsb'_ctrl_ne_zero_iff]
    simp [Reg.addr, isReadOnly, isIllegalValue]
  | key k | grid k | obuf k =>
    refine iff_of_true (.inl ?_) trivial
    simp only [Reg.present, Reg.addr, isReadOnly] at hr ⊢
    omega
  | ibuf k =>
    have hk : k < Config.bufDepth := hr
    have hd := Config.bufDepth_le
    have hro : ¬ isReadOnly (0x1000 + k) := by unfold isReadOnly; omega
    have hcmd : 0x1000 + k ≠ 7 := by omega
    simp only [Reg.addr, Reg.refuses, hro, hcmd, isIllegalValue_ibuf w hk, false_and, or_false, false_or, Nat.not_le]
  | _ => simp [Reg.refuses, Reg.addr, isReadOnly, isIllegalValue]

/-- In the cases of R66 a write is refused, busy or not. -/
theorem busWrite_refused {s : State} {a : Addr} {w : Word} (h : isRefusedWrite s a.toNat w) : busWrite a w s = refuse s := by
  rcases busWrite_cases a w s with ⟨_, he⟩ | ⟨_, _, he⟩ | ⟨r, hb, hm, he⟩
  · exact he
  · exact he
  · exact he.trans (writeReg_refused ((isRefusedWrite_iff w hb hm).1 h))

/-- In no other case does a write set `BUSERR`. -/
theorem busWrite_buserr {s : State} {a : Addr} {w : Word} (h : ¬ isRefusedWrite s a.toNat w)
    (hbe : (busWrite a w s).status.buserr = true) : s.status.buserr = true := by
  rcases busWrite_cases a w s with ⟨hb, _⟩ | ⟨_, hm, _⟩ | ⟨r, hb, hm, he⟩
  · exact absurd (.inr (.inr (.inr (.inl hb)))) h
  · exact absurd (.inl (not_isMapped_iff.2 hm)) h
  · exact writeReg_buserr (fun hr => h ((isRefusedWrite_iff w hb hm).2 hr)) (he ▸ hbe)

/-- Settles O19: the agenda is no part of the cases of R66, so the event's outcome is that of `busWrite`. -/
theorem writesAreRefusedExactly : Obligations.WritesAreRefusedExactly := by
  refine fun s a w rest => ⟨fun h => ?_, fun h => ?_⟩
  · exact congrArg _ (busWrite_refused (s := { s with agenda := rest }) h)
  · exact ⟨_, rfl, busWrite_buserr (s := { s with agenda := rest }) h⟩

end Sys2Proof.Machine

/-! PROOFS of the family 30_encoding. What each format reads gives O1, what a word then is gives O2, and which words
pass the test of a row gives O3. Last the run of a `LOAD` line (O28). -/

namespace Sys2Proof

/-! ### Words and bytes put together from their fields -/

/-- A word with `Z1 = 0` is known by its other four fields (30_encoding R91). -/
theorem eq_packWord {w : Word} {opc a b : BitVec 8} {m : Bool} (hz : fieldZ1 w = 0) (ho : fieldOpc w = opc) (hm : fieldM w = m)
    (ha : fieldA w = a) (hb : fieldB w = b) : w = packWord opc m a b := by
  subst ho hm ha hb
  exact (packWord_fields w hz).symm

/-- A field whose upper bits are zero is its lower bits under zeros. -/
theorem eq_zero_append {n m : Nat} {b : BitVec (m + n)} (h : b.extractLsb' n m = 0) : b = 0#m ++ b.extractLsb' 0 n := by
  refine BitVec.eq_of_getLsbD_eq fun i hi => ?_
  rw [BitVec.getLsbD_append, BitVec.getLsbD_extractLsb']
  split
  · simp [*]
  · have hbit : (b.extractLsb' n m).getLsbD (i - n) = (0#m).getLsbD (i - n) := by rw [h]; rfl
    rw [BitVec.getLsbD_extractLsb', Nat.add_sub_cancel' (by omega)] at hbit
    simpa [show i - n < m by omega] using hbit

/-! ### What each format reads from a packed word (30_encoding R92, R93) -/

/-- `Z1` of a packed word is zero, so its `OPC` decides the row. -/
theorem decode_packWord (opc : BitVec 8) (m : Bool) (a b : BitVec 8) :
    decode (packWord opc m a b) = decodeOperands opc.toNat (packWord opc m a b) := by
  rw [decode, fieldZ1_packWord, if_pos rfl, fieldOpc_packWord]

theorem formatZ_packWord (opc : BitVec 8) (i : Instr) : formatZ (packWord opc false 0 0) i = .ok i := by
  simp [formatZ]

theorem formatK_packWord (opc : BitVec 8) (f : BitVec 2 → Instr) (kind : BitVec 2) :
    formatK (packWord opc false 0 (0#6 ++ kind)) f = .ok (f kind) := by
  rw [formatK, fieldB_packWord, if_pos ⟨fieldM_packWord .., fieldA_packWord .., extract_high_append _ kind⟩]
  exact congrArg (fun v => Except.ok (f v)) (extract_low_append _ kind)

theorem formatS_packWord (opc : BitVec 8) (f : Sym → Instr) (s : Sym) :
    formatS (packWord opc false 0 (0#2 ++ s)) f = .ok (f s) := by
  rw [formatS, fieldB_packWord, if_pos ⟨fieldM_packWord .., fieldA_packWord .., extract_high_append _ s⟩]
  exact congrArg (fun v => Except.ok (f v)) (extract_low_append _ s)

theorem formatP_packWord (opc : BitVec 8) (f : BitVec 3 → BitVec 3 → Instr) (row col : BitVec 3) :
    formatP (packWord opc false (0#5 ++ row) (0#5 ++ col)) f = .ok (f row col) := by
  rw [formatP, fieldA_packWord, fieldB_packWord,
    if_pos ⟨fieldM_packWord .., extract_high_append _ row, extract_high_append _ col⟩]
  exact congrArg₂ (fun u v => Except.ok (f u v)) (extract_low_append _ row) (extract_low_append _ col)

theorem formatR_packWord (opc : BitVec 8) (f : Bool → BitVec 3 → Int → Instr) (m : Bool) (line : BitVec 3) {n : Int}
    (h : amountEncodable n = true) : formatR (packWord opc m (0#5 ++ line) (BitVec.ofInt 8 n)) f = .ok (f m line n) := by
  have hline : (0#5 ++ line : BitVec 8).extractLsb' 3 5 = 0 := extract_high_append _ line
  rw [formatR, fieldM_packWord, fieldA_packWord, fieldB_packWord, if_pos hline]
  exact congrArg₂ (fun u v => Except.ok (f m u v)) (extract_low_append _ line) (sext8_ofInt h)

/-- Settles O1: each command by the format of its row. -/
theorem decodeOfEncodeIsTheCommand : Obligations.DecodeOfEncodeIsTheCommand := by
  intro i hwf
  cases i with
  | init | keylit | keydrv | chkkey | enc | dec | encn | decn => exact (decode_packWord ..).trans (formatZ_packWord ..)
  | chkmsg kind => exact (decode_packWord ..).trans (formatK_packWord ..)
  | symat row col => exact (decode_packWord ..).trans (formatP_packWord ..)
  | posof s | mkadv s | enc1 s | dec1 s => exact (decode_packWord ..).trans (formatS_packWord ..)
  | rotr m line n | rotc m line n => exact (decode_packWord ..).trans (formatR_packWord _ _ m line hwf)

/-! ### What a word is when its format reads it (30_encoding R92, R95) -/

/-- A word decodes by the operands of its row, and its `Z1` is zero. -/
theorem decode_ok {w : Word} {i : Instr} (h : decode w = .ok i) :
    fieldZ1 w = 0 ∧ decodeOperands (fieldOpc w).toNat w = .ok i := by
  rw [decode] at h
  split at h
  next hz => exact ⟨hz, h⟩
  next => cases h

section
variable {w : Word} {opc : Nat} {i : Instr} (hz : fieldZ1 w = 0) (ho : (fieldOpc w).toNat = opc)
include hz ho

/-- `eq_packWord`, for an `OPC` known by its number. -/
theorem eq_packWord_ofNat {m : Bool} {a b : BitVec 8} (hm : fieldM w = m) (ha : fieldA w = a) (hb : fieldB w = b) :
    w = packWord (BitVec.ofNat 8 opc) m a b :=
  eq_packWord hz (by rw [← ho, BitVec.ofNat_toNat, BitVec.setWidth_eq]) hm ha hb

theorem formatZ_ok {j : Instr} (h : formatZ w j = .ok i) : i = j ∧ w = packWord (BitVec.ofNat 8 opc) false 0 0 := by
  rw [formatZ] at h
  split at h
  next hc =>
    obtain ⟨hm, ha, hb⟩ := hc
    exact ⟨(Except.ok.inj h).symm, eq_packWord_ofNat hz ho hm ha hb⟩
  next => cases h

theorem formatK_ok {f : BitVec 2 → Instr} (h : formatK w f = .ok i) :
    ∃ kind, i = f kind ∧ w = packWord (BitVec.ofNat 8 opc) false 0 (0#6 ++ kind) := by
  rw [formatK] at h
  split at h
  next hc =>
    obtain ⟨hm, ha, hb⟩ := hc
    exact ⟨_, (Except.ok.inj h).symm, eq_packWord_ofNat hz ho hm ha (eq_zero_append hb)⟩
  next => cases h

theorem formatS_ok {f : Sym → Instr} (h : formatS w f = .ok i) :
    ∃ s, i = f s ∧ w = packWord (BitVec.ofNat 8 opc) false 0 (0#2 ++ s) := by
  rw [formatS] at h
  split at h
  next hc =>
    obtain ⟨hm, ha, hb⟩ := hc
    exact ⟨_, (Except.ok.inj h).symm, eq_packWord_ofNat hz ho hm ha (eq_zero_append hb)⟩
  next => cases h

theorem formatP_ok {f : BitVec 3 → BitVec 3 → Instr} (h : formatP w f = .ok i) :
    ∃ row col, i = f row col ∧ w = packWord (BitVec.ofNat 8 opc) false (0#5 ++ row) (0#5 ++ col) := by
  rw [formatP] at h
  split at h
  next hc =>
    obtain ⟨hm, ha, hb⟩ := hc
    exact ⟨_, _, (Except.ok.inj h).symm, eq_packWord_ofNat hz ho hm (eq_zero_append ha) (eq_zero_append hb)⟩
  next => cases h

theorem formatR_ok {f : Bool → BitVec 3 → Int → Instr} (h : formatR w f = .ok i) :
    ∃ m line n, amountEncodable n = true ∧ i = f m line n ∧
      w = packWord (BitVec.ofNat 8 opc) m (0#5 ++ line) (BitVec.ofInt 8 n) := by
  rw [formatR] at h
  split at h
  next ha =>
    exact ⟨_, _, _, amountEncodable_sext8 (fieldB w), (Except.ok.inj h).symm,
      eq_packWord_ofNat hz ho rfl (eq_zero_append ha) (ofInt_sext8 _).symm⟩
  next => cases h

end

/-- Settles O2: in each row, what the format read is all the word holds. -/
theorem decodedWordIsTheCommandsWord : Obligations.DecodedWordIsTheCommandsWord := by
  intro w i h
  obtain ⟨hz, h⟩ := decode_ok h
  generalize ho : (fieldOpc w).toNat = opc at h
  unfold decodeOperands at h
  split at h
  case h_1 | h_2 | h_3 | h_4 | h_13 | h_14 | h_15 | h_16 =>
    obtain ⟨rfl, rfl⟩ := formatZ_ok hz ho h
    exact ⟨rfl, rfl⟩
  case h_5 =>
    obtain ⟨kind, rfl, rfl⟩ := formatK_ok hz ho h
    exact ⟨rfl, rfl⟩
  case h_6 =>
    obtain ⟨row, col, rfl, rfl⟩ := formatP_ok hz ho h
    exact ⟨rfl, rfl⟩
  case h_7 | h_10 | h_11 | h_12 =>
    obtain ⟨s, rfl, rfl⟩ := formatS_ok hz ho h
    exact ⟨rfl, rfl⟩
  case h_8 | h_9 =>
    obtain ⟨m, line, n, hn, rfl, rfl⟩ := formatR_ok hz ho h
    exact ⟨hn, rfl⟩
  case h_17 => cases h

/-! ### Which words pass the test of a row (30_encoding R94) -/

theorem fieldOpc_and (w v : Word) : fieldOpc (w &&& v) = fieldOpc w &&& fieldOpc v := BitVec.extractLsb'_and

theorem fieldZ1_and (w v : Word) : fieldZ1 (w &&& v) = fieldZ1 w &&& fieldZ1 v := BitVec.extractLsb'_and

theorem fieldM_and (w v : Word) : fieldM (w &&& v) = (fieldM w && fieldM v) := BitVec.getLsbD_and

theorem fieldA_and (w v : Word) : fieldA (w &&& v) = fieldA w &&& fieldA v := BitVec.extractLsb'_and

theorem fieldB_and (w v : Word) : fieldB (w &&& v) = fieldB w &&& fieldB v := BitVec.extractLsb'_and

/-- The test of a row whose mask holds all of `OPC` and `Z1`, field by field. -/
theorem fields_of_mask {w mask : Word} {opc : BitVec 8} (h : w &&& mask = packWord opc false 0 0)
    (hopc : fieldOpc mask = BitVec.allOnes 8) (hz1 : fieldZ1 mask = BitVec.allOnes 7) :
    fieldZ1 w = 0 ∧ fieldOpc w = opc ∧ (fieldM w && fieldM mask) = false ∧ fieldA w &&& fieldA mask = 0 ∧
      fieldB w &&& fieldB mask = 0 := by
  have ho := congrArg fieldOpc h
  have hz := congrArg fieldZ1 h
  have hm := congrArg fieldM h
  have ha := congrArg fieldA h
  have hb := congrArg fieldB h
  rw [fieldOpc_and, hopc, BitVec.and_allOnes, fieldOpc_packWord] at ho
  rw [fieldZ1_and, hz1, BitVec.and_allOnes, fieldZ1_packWord] at hz
  rw [fieldM_and, fieldM_packWord] at hm
  rw [fieldA_and, fieldA_packWord] at ha
  rw [fieldB_and, fieldB_packWord] at hb
  exact ⟨hz, ho, hm, ha, hb⟩

/-- A field whose upper bits are under the mask and zero. -/
theorem eq_zero_append_of_and (n m : Nat) {b : BitVec (m + n)} (h : b &&& (BitVec.allOnes m ++ 0#n) = 0) :
    b = 0#m ++ b.extractLsb' 0 n := by
  refine eq_zero_append ?_
  have hhigh : (b &&& (BitVec.allOnes m ++ 0#n)).extractLsb' n m = 0 := by rw [h]; exact BitVec.extractLsb'_zero
  rwa [BitVec.extractLsb'_and, extract_high_append, BitVec.and_allOnes] at hhigh

section
variable {w : Word} {opc : BitVec 8}

theorem eq_of_maskZ (h : w &&& 0xFFFFFFFF = packWord opc false 0 0) : w = packWord opc false 0 0 :=
  (BitVec.and_allOnes (x := w)).symm.trans h

theorem eq_of_maskK (h : w &&& 0xFFFFFFFC = packWord opc false 0 0) :
    ∃ kind : BitVec 2, w = packWord opc false 0 (0#6 ++ kind) := by
  obtain ⟨hz, ho, hm, ha, hb⟩ := fields_of_mask h rfl rfl
  exact ⟨_, eq_packWord hz ho ((Bool.and_true _).symm.trans hm) (BitVec.and_allOnes.symm.trans ha)
    (eq_zero_append_of_and 2 6 hb)⟩

theorem eq_of_maskS (h : w &&& 0xFFFFFFC0 = packWord opc false 0 0) : ∃ s : Sym, w = packWord opc false 0 (0#2 ++ s) := by
  obtain ⟨hz, ho, hm, ha, hb⟩ := fields_of_mask h rfl rfl
  exact ⟨_, eq_packWord hz ho ((Bool.and_true _).symm.trans hm) (BitVec.and_allOnes.symm.trans ha)
    (eq_zero_append_of_and 6 2 hb)⟩

theorem eq_of_maskP (h : w &&& 0xFFFFF8F8 = packWord opc false 0 0) :
    ∃ row col : BitVec 3, w = packWord opc false (0#5 ++ row) (0#5 ++ col) := by
  obtain ⟨hz, ho, hm, ha, hb⟩ := fields_of_mask h rfl rfl
  exact ⟨_, _, eq_packWord hz ho ((Bool.and_true _).symm.trans hm)
    (eq_zero_append_of_and 3 5 ha) (eq_zero_append_of_and 3 5 hb)⟩

theorem eq_of_maskR (h : w &&& 0xFFFEF800 = packWord opc false 0 0) :
    ∃ m, ∃ line : BitVec 3, ∃ n, amountEncodable n = true ∧ w = packWord opc m (0#5 ++ line) (BitVec.ofInt 8 n) := by
  obtain ⟨hz, ho, -, ha, -⟩ := fields_of_mask h rfl rfl
  exact ⟨_, _, _, amountEncodable_sext8 (fieldB w),
    eq_packWord hz ho rfl (eq_zero_append_of_and 3 5 ha) (ofInt_sext8 _).symm⟩

end

/-- A word that passes the test of a command's row is the word of a command of that row. -/
theorem exists_encode_of_test {w : Word} {i : Instr} (h : w &&& (opcodeRow i).mask = (opcodeRow i).wordMatch) :
    ∃ j : Instr, j.wellFormed = true ∧ opcodeRow j = opcodeRow i ∧ encode j = w := by
  cases i with
  | init => exact ⟨.init, rfl, rfl, (eq_of_maskZ (opc := 0x01) h).symm⟩
  | keylit => exact ⟨.keylit, rfl, rfl, (eq_of_maskZ (opc := 0x02) h).symm⟩
  | keydrv => exact ⟨.keydrv, rfl, rfl, (eq_of_maskZ (opc := 0x03) h).symm⟩
  | chkkey => exact ⟨.chkkey, rfl, rfl, (eq_of_maskZ (opc := 0x04) h).symm⟩
  | chkmsg _ => obtain ⟨kind, rfl⟩ := eq_of_maskK (opc := 0x05) h; exact ⟨.chkmsg kind, rfl, rfl, rfl⟩
  | symat _ _ => obtain ⟨row, col, rfl⟩ := eq_of_maskP (opc := 0x10) h; exact ⟨.symat row col, rfl, rfl, rfl⟩
  | posof _ => obtain ⟨s, rfl⟩ := eq_of_maskS (opc := 0x11) h; exact ⟨.posof s, rfl, rfl, rfl⟩
  | rotr _ _ _ => obtain ⟨m, line, n, hn, rfl⟩ := eq_of_maskR (opc := 0x12) h; exact ⟨.rotr m line n, hn, rfl, rfl⟩
  | rotc _ _ _ => obtain ⟨m, line, n, hn, rfl⟩ := eq_of_maskR (opc := 0x13) h; exact ⟨.rotc m line n, hn, rfl, rfl⟩
  | mkadv _ => obtain ⟨s, rfl⟩ := eq_of_maskS (opc := 0x14) h; exact ⟨.mkadv s, rfl, rfl, rfl⟩
  | enc1 _ => obtain ⟨s, rfl⟩ := eq_of_maskS (opc := 0x20) h; exact ⟨.enc1 s, rfl, rfl, rfl⟩
  | dec1 _ => obtain ⟨s, rfl⟩ := eq_of_maskS (opc := 0x21) h; exact ⟨.dec1 s, rfl, rfl, rfl⟩
  | enc => exact ⟨.enc, rfl, rfl, (eq_of_maskZ (opc := 0x30) h).symm⟩
  | dec => exact ⟨.dec, rfl, rfl, (eq_of_maskZ (opc := 0x31) h).symm⟩
  | encn => exact ⟨.encn, rfl, rfl, (eq_of_maskZ (opc := 0x32) h).symm⟩
  | decn => exact ⟨.decn, rfl, rfl, (eq_of_maskZ (opc := 0x33) h).symm⟩

open Laws in
/-- The word of every command passes the test of its row: the sixteen `RowMatch` laws as one. -/
theorem encode_test (i : Instr) : encode i &&& (opcodeRow i).mask = (opcodeRow i).wordMatch := by
  refine eq_of_beq (?_ : RowMatch.Statement i)
  cases i with
  | init => exact RowMatch.init
  | keylit => exact RowMatch.keylit
  | keydrv => exact RowMatch.keydrv
  | chkkey => exact RowMatch.chkkey
  | chkmsg kind => exact RowMatch.chkmsg kind
  | symat row col => exact RowMatch.symat row col
  | posof s => exact RowMatch.posof s
  | rotr m line n => exact RowMatch.rotr m line n
  | rotc m line n => exact RowMatch.rotc m line n
  | mkadv s => exact RowMatch.mkadv s
  | enc1 s => exact RowMatch.enc1 s
  | dec1 s => exact RowMatch.dec1 s
  | enc => exact RowMatch.enc
  | dec => exact RowMatch.dec
  | encn => exact RowMatch.encn
  | decn => exact RowMatch.decn

/-- A word passes the test of a row exactly when it decodes to a command of that row. -/
theorem test_iff_decode {w : Word} {i : Instr} :
    w &&& (opcodeRow i).mask = (opcodeRow i).wordMatch ↔ ∃ j, decode w = .ok j ∧ opcodeRow j = opcodeRow i := by
  constructor
  · intro h
    obtain ⟨j, hwf, hrow, rfl⟩ := exists_encode_of_test h
    exact ⟨j, decodeOfEncodeIsTheCommand j hwf, hrow⟩
  · rintro ⟨j, hj, hrow⟩
    obtain ⟨-, rfl⟩ := decodedWordIsTheCommandsWord w j hj
    exact hrow ▸ encode_test j

/-- The opcode map holds the rows of the commands and no others. -/
theorem mem_opcodeRows {row : OpcodeRow} : row ∈ opcodeRows ↔ ∃ i, opcodeRow i = row := by
  constructor
  · intro h
    obtain ⟨i, -, hi⟩ := List.mem_map.1 h
    exact ⟨i, hi⟩
  · rintro ⟨i, rfl⟩
    cases i <;> simp [opcodeRows, opcodeRow]

/-- Settles O3: a row is the row of a command, and a word passes its test exactly when it decodes to a command of that row. -/
theorem decoderFollowsTheOpcodeMap : Obligations.DecoderFollowsTheOpcodeMap := by
  refine fun w => ⟨⟨?_, ?_⟩, ?_⟩
  · rintro ⟨i, hi⟩
    exact ⟨opcodeRow i, mem_opcodeRows.2 ⟨i, rfl⟩, test_iff_decode.2 ⟨i, hi, rfl⟩⟩
  · rintro ⟨row, hmem, htest⟩
    obtain ⟨i, rfl⟩ := mem_opcodeRows.1 hmem
    obtain ⟨j, hj, -⟩ := test_iff_decode.1 htest
    exact ⟨j, hj⟩
  · intro i hi row hmem
    obtain ⟨k, rfl⟩ := mem_opcodeRows.1 hmem
    rw [test_iff_decode, hi]
    constructor
    · rintro ⟨j, hj, hrow⟩
      exact Except.ok.inj hj ▸ hrow.symm
    · exact fun hrow => ⟨i, rfl, hrow.symm⟩

end Sys2Proof

namespace Sys2Proof.Machine

/-! ### The `LOAD` line (30_encoding R100) -/

/-- The write of a code to an element of `IBUF` of an idle block (20_memory R77). -/
theorem step_write_code {s : State} {k : Nat} (v : Sym) (rest : List Event) (hb : s.status.busy = false) (hk : k < Config.bufDepth) :
    step { s with agenda := .write (addrOf (.ibuf k)) (v.zeroExtend 32) :: rest }
      = .next { s with agenda := rest, ibuf := bufPut s.ibuf k v } := by
  have hv : (v.zeroExtend 32).toNat = v.toNat := BitVec.toNat_setWidth_of_le (by decide)
  refine (step_write_idle _ rest hb (mapped_ibuf_element hk)).trans ?_
  rw [writeReg, hv, if_pos (Nat.le_of_lt_succ v.isLt), BitVec.ofNat_toNat, BitVec.setWidth_eq]

/-- The writes of a `LOAD` line put its codes into `IBUF`, one after the other. -/
theorem run_loadEvents (codes : List Sym) {s : State} {k : Nat} (rest : List Event) (hb : s.status.busy = false)
    (hk : k + codes.length ≤ Config.bufDepth) :
    core.run codes.length { s with agenda := loadEvents k codes ++ rest }
      = .next { s with agenda := rest, ibuf := bufPutFrom s.ibuf k codes } := by
  induction codes generalizing s k with
  | nil => exact run_zero _
  | cons v vs ih =>
    rw [List.length_cons] at hk
    have hstep := step_write_code (s := s) v (loadEvents (k + 1) vs ++ rest) hb (by omega : k < Config.bufDepth)
    exact (run_succ vs.length hstep).trans (ih (s := { s with ibuf := bufPut s.ibuf k v }) hb (by omega))

/-- The write of a legal length to `LEN` of an idle block (10_state R32). -/
theorem step_write_len {s : State} {n : Nat} (rest : List Event) (hb : s.status.busy = false) (hn : n ≤ Config.bufDepth) :
    step { s with agenda := .write (addrOf .len) (BitVec.ofNat 32 n) :: rest }
      = .next { s with agenda := rest, len := BitVec.ofNat 13 n } := by
  have hd := Config.bufDepth_le
  have hw : (BitVec.ofNat 32 n).toNat = n := Nat.mod_eq_of_lt (by omega)
  refine (step_write_idle (r := .len) _ rest hb rfl).trans ?_
  rw [writeReg, hw, if_pos ((Config.fits_iff _).2 hn)]

/-- The elements of `IBUF` after a run of writes from element 0 on. -/
theorem ibufAt_bufPutFrom_zero {s : State} (h : s.ibuf.wf) (vs : List Sym) (k : Nat) :
    ibufAt { s with ibuf := bufPutFrom s.ibuf 0 vs } k = if hk : k < vs.length then vs[k] else ibufAt s k := by
  simp only [ibufAt, bufFind_bufPutFrom _ _ _ _ h]
  split <;> simp_all

/-- The `LOAD` line as the whole agenda of an idle block: the run of its writes. -/
theorem run_load {s : State} {codes : List Sym} (hb : s.status.busy = false) (hag : s.agenda = [])
    (hlen : codes.length ≤ Config.bufDepth) :
    core.run (codes.length + 1) (withProgram [.load codes] s)
      = .next { s with ibuf := bufPutFrom s.ibuf 0 codes, len := BitVec.ofNat 13 codes.length } := by
  have hprog : withProgram [.load codes] s
      = { s with agenda := loadEvents 0 codes ++ [.write (addrOf .len) (BitVec.ofNat 32 codes.length)] } := by
    simp [withProgram, programEvents, lineEvents, hag]
  have hload := run_loadEvents codes (s := s) (k := 0) [.write (addrOf .len) (BitVec.ofNat 32 codes.length)] hb (by omega)
  have hlast := step_write_len (s := { s with ibuf := bufPutFrom s.ibuf 0 codes }) [] hb hlen
  rw [hprog, run_then hload, hlast, hag]
  rfl

/-- Settles O28: the codes go into `IBUF` write by write, and the last write is that of `LEN`. -/
theorem loadLineFillsTheInputBuffer : Obligations.LoadLineFillsTheInputBuffer := by
  intro s codes hb hwf hag hlen
  have hat := ibufAt_bufPutFrom_zero hwf codes
  refine ⟨_, run_load hb hag hlen, rfl, toNat_ofNat_of_le_bufDepth hlen, fun k hk => ?_, fun k hk => ?_⟩
  · exact (hat k).trans (dif_pos hk)
  · exact (hat k).trans (dif_neg (by omega))

end Sys2Proof.Machine

/-! PROOFS of the family 40_grid_ops. First the positions and the cells of a rotation, then the rotation laws of R129 (O29 to O32):
a rotation moves tiles, and `mkr` and `mkc` say where to. Last what the five operator commands complete to (O33 to O37). -/

namespace Sys2Proof.Machine

open Sys2Proof.Claims

/-! ### Components modulo `size` (R121, R122) -/

theorem toNat_modSize (sz : GridSize) (a : Int) : (modSize sz a).toNat = (a % (sz.side : Int)).toNat := by
  rw [← modSize_toNat, Int.toNat_natCast]

/-- Of a natural number the floored modulus is the plain one. -/
theorem modSize_natCast (sz : GridSize) (a : Nat) : modSize sz (a : Int) = BitVec.ofNat 3 (a % sz.side) := by
  rw [modSize, ← Int.natCast_mod, Int.toNat_natCast]

theorem toNat_modSize_natCast (sz : GridSize) (a : Nat) : (modSize sz (a : Int)).toNat = a % sz.side := by
  rw [toNat_modSize, ← Int.natCast_mod, Int.toNat_natCast]

/-- Adding `b` to a reduced `a` brings `x` back, when `a + b` is `x`. -/
theorem modSize_modSize_add {sz : GridSize} {x : BitVec 3} {a b : Int} (hx : x.toNat < sz.side)
    (h : a + b = x.toNat) : modSize sz (((modSize sz a).toNat : Int) + b) = x := by
  rw [modSize_add, h]
  exact BitVec.eq_of_toNat_eq (modSize_of_lt sz hx)

theorem psub_padd {sz : GridSize} {a : Pos} (b : Pos) (ha : posValid sz a) : psub sz (padd sz a b) b = a := by
  obtain ⟨hrow, hcol⟩ := ha
  exact pos_ext (modSize_modSize_add hrow (Int.add_neg_cancel_right _ _))
    (modSize_modSize_add hcol (Int.add_neg_cancel_right _ _))

/-- Settles O29: each component is a floored modulus, and a shift by `b` and then by `-b` brings a component back. -/
theorem positionAddAndSubtract : Obligations.PositionAddAndSubtract := fun sz a b =>
  ⟨toNat_modSize_natCast sz (a.row.toNat + b.row.toNat), toNat_modSize_natCast sz (a.col.toNat + b.col.toNat),
    modSize_toNat sz _, modSize_toNat sz _, psub_padd b⟩

/-! ### The cells of a rotation, read from where they came (R125, R126) -/

/-- The column that column `c` moves to reads from `c`. -/
theorem modSize_shift_back {sz : GridSize} {c : Nat} (n : Int) (hc : c < sz.side) :
    (modSize sz (((modSize sz ((c : Int) + n)).toNat : Int) - n)).toNat = c := by
  rw [Int.sub_eq_add_neg, modSize_add, Int.add_neg_cancel_right, modSize_of_lt sz hc]

theorem cell_rotr_moved {sz : GridSize} (G : Grid) {r c : Nat} (n : Int) (hr : r < sz.side) (hc : c < sz.side) :
    cell (rotr sz G r n) (r * sz.side + (modSize sz ((c : Int) + n)).toNat) = cell G (r * sz.side + c) := by
  rw [cell_rotr sz G r n hr (modSize_lt sz _), if_pos rfl, modSize_shift_back n hc]

theorem cell_rotc_moved {sz : GridSize} (G : Grid) {r c : Nat} (n : Int) (hr : r < sz.side) (hc : c < sz.side) :
    cell (rotc sz G c n) ((modSize sz ((r : Int) + n)).toNat * sz.side + c) = cell G (r * sz.side + c) := by
  rw [cell_rotc sz G c n (modSize_lt sz _) hc, if_pos rfl, modSize_shift_back n hr]

theorem cell_rotr_of_not {sz : GridSize} (G : Grid) {r k : Nat} (n : Int) (hk : k < 64)
    (h : ¬ (k < sz.count ∧ k / sz.side = r)) : cell (rotr sz G r n) k = cell G k := by
  rw [rotr, cell_tabulate_lt _ hk, if_neg h]

theorem cell_rotc_of_not {sz : GridSize} (G : Grid) {c k : Nat} (n : Int) (hk : k < 64)
    (h : ¬ (k < sz.count ∧ k % sz.side = c)) : cell (rotc sz G c n) k = cell G k := by
  rw [rotc, cell_tabulate_lt _ hk, if_neg h]

/-! ### The laws of the rotations (R129 laws 2 to 4) -/

/-- Two grids are the same when their cells below `N`, by row and column, and those from `N` on are. -/
theorem grid_ext_coords (sz : GridSize) {G H : Grid}
    (hlow : ∀ r c, r < sz.side → c < sz.side → cell G (r * sz.side + c) = cell H (r * sz.side + c))
    (hhigh : ∀ k, sz.count ≤ k → k < 64 → cell G k = cell H k) : G = H := by
  refine grid_ext fun k hk => ?_
  rcases Nat.lt_or_ge k sz.count with h | h
  · obtain ⟨r, c, hr, hc, rfl⟩ := exists_flat sz h
    exact hlow r c hr hc
  · exact hhigh k h hk

/-- Reading back by `b` and then by `a` is reading back by `a + b`. -/
theorem modSize_sub_sub (sz : GridSize) (x a b : Int) :
    modSize sz (((modSize sz (x - b)).toNat : Int) - a) = modSize sz (x - (a + b)) := by
  rw [Int.sub_eq_add_neg (b := a), modSize_add]
  exact congrArg (modSize sz) (by omega)

/-- Reading back by a multiple of `size` is reading in place. -/
theorem modSize_sub_mul {sz : GridSize} {c : Nat} (a : Int) (hc : c < sz.side) :
    (modSize sz ((c : Int) - (sz.side : Int) * a)).toNat = c := by
  rw [modSize_congr sz (Int.sub_mul_emod_self_left _ _ _), modSize_of_lt sz hc]

theorem rotr_rotr (sz : GridSize) (G : Grid) (r : Nat) (a b : Int) :
    rotr sz (rotr sz G r a) r b = rotr sz G r (a + b) := by
  refine grid_ext_coords sz (fun r' c' hr hc => ?_) (fun k h hk => ?_)
  · simp only [cell_rotr, hr, hc, modSize_lt, modSize_sub_sub]
    split <;> rfl
  · simp only [cell_rotr_high sz _ _ _ h hk]

theorem rotc_rotc (sz : GridSize) (G : Grid) (c : Nat) (a b : Int) :
    rotc sz (rotc sz G c a) c b = rotc sz G c (a + b) := by
  refine grid_ext_coords sz (fun r' c' hr hc => ?_) (fun k h hk => ?_)
  · simp only [cell_rotc, hr, hc, modSize_lt, modSize_sub_sub]
    split <;> rfl
  · simp only [cell_rotc_high sz _ _ _ h hk]

theorem rotr_size_mul (sz : GridSize) (G : Grid) (r : Nat) (a : Int) : rotr sz G r ((sz.side : Int) * a) = G := by
  refine grid_ext_coords sz (fun r' c' hr hc => ?_) (fun k h hk => cell_rotr_high sz G r _ h hk)
  rw [cell_rotr sz G r _ hr hc, modSize_sub_mul a hc, ite_self]

theorem rotc_size_mul (sz : GridSize) (G : Grid) (c : Nat) (a : Int) : rotc sz G c ((sz.side : Int) * a) = G := by
  refine grid_ext_coords sz (fun r' c' hr hc => ?_) (fun k h hk => cell_rotc_high sz G c _ h hk)
  rw [cell_rotc sz G c _ hr hc, modSize_sub_mul a hr, ite_self]

theorem rotr_neg (sz : GridSize) (G : Grid) (r : Nat) (n : Int) : rotr sz (rotr sz G r n) r (-n) = G := by
  rw [rotr_rotr, Int.add_right_neg, ← Int.mul_zero (sz.side : Int), rotr_size_mul]

theorem rotc_neg (sz : GridSize) (G : Grid) (c : Nat) (n : Int) : rotc sz (rotc sz G c n) c (-n) = G := by
  rw [rotc_rotc, Int.add_right_neg, ← Int.mul_zero (sz.side : Int), rotc_size_mul]

/-- A cell lies in at most one of two rows, and the rotation of the other row does not reach it. -/
theorem rotr_comm {sz : GridSize} (G : Grid) {r r' : Nat} (a b : Int) (h : r' ≠ r) :
    rotr sz (rotr sz G r a) r' b = rotr sz (rotr sz G r' b) r a := by
  refine grid_ext_coords sz (fun i j hi hj => ?_) (fun k hn hk => ?_)
  · by_cases hr : i = r
    · subst hr; simp [cell_rotr, hi, hj, modSize_lt, h.symm]
    · simp [cell_rotr, hi, hj, modSize_lt, hr]
  · simp only [cell_rotr_high sz _ _ _ hn hk]

theorem rotc_comm {sz : GridSize} (G : Grid) {c c' : Nat} (a b : Int) (h : c' ≠ c) :
    rotc sz (rotc sz G c a) c' b = rotc sz (rotc sz G c' b) c a := by
  refine grid_ext_coords sz (fun i j hi hj => ?_) (fun k hn hk => ?_)
  · by_cases hc : j = c
    · subst hc; simp [cell_rotc, hi, hj, modSize_lt, h.symm]
    · simp [cell_rotc, hi, hj, modSize_lt, hc]
  · simp only [cell_rotc_high sz _ _ _ hn hk]

/-- Settles O31: the cells of the two sides are read from the same place. -/
theorem rotationsAddUpAndUndo : Obligations.RotationsAddUpAndUndo := fun sz G line a b n _ =>
  ⟨rotr_rotr sz G line a b, rotc_rotc sz G line a b, rotr_size_mul sz G line a, rotc_size_mul sz G line a,
    rotr_neg sz G line n, rotc_neg sz G line n, fun _ _ h => ⟨rotr_comm G a b h, rotc_comm G a b h⟩⟩

/-! ### Grids whose tiles have moved -/

/-- `H` is `G` with the tile of each position `p` moved to `f p`; the cells from `N` on stay. -/
structure TilesMove (sz : GridSize) (f : Pos → Pos) (G H : Grid) : Prop where
  valid : ∀ p, posValid sz p → posValid sz (f p)
  tile : ∀ p, posValid sz p → symat sz H (f p) = symat sz G p
  high : ∀ k, sz.count ≤ k → k < 64 → cell H k = cell G k

/-- A row rotation moves the tiles as `mkr` says (R127). -/
theorem tilesMove_rotr (sz : GridSize) (G : Grid) (r : Nat) (n : Int) :
    TilesMove sz (mkr sz · r n) G (rotr sz G r n) where
  valid p hp := mkr_valid r n hp
  tile p hp := by
    obtain ⟨hrow, hcol⟩ := hp
    rw [mkr]
    split
    next h => subst h; exact cell_rotr_moved G n hrow hcol
    next h => exact (cell_rotr sz G r n hrow hcol).trans (if_neg h)
  high k h hk := cell_rotr_high sz G r n h hk

/-- A column rotation moves the tiles as `mkc` says (R128). -/
theorem tilesMove_rotc (sz : GridSize) (G : Grid) (c : Nat) (n : Int) :
    TilesMove sz (mkc sz · c n) G (rotc sz G c n) where
  valid p hp := mkc_valid c n hp
  tile p hp := by
    obtain ⟨hrow, hcol⟩ := hp
    rw [mkc]
    split
    next h => subst h; exact cell_rotc_moved G n hrow hcol
    next h => exact (cell_rotc sz G c n hrow hcol).trans (if_neg h)
  high k h hk := cell_rotc_high sz G c n h hk

theorem mkr_neg {sz : GridSize} {p : Pos} (r : Nat) (n : Int) (hp : posValid sz p) :
    mkr sz (mkr sz p r n) r (-n) = p := by
  by_cases h : p.row.toNat = r
  · simp only [mkr, h, if_true]
    exact pos_ext rfl (modSize_modSize_add hp.2 (Int.add_neg_cancel_right _ _))
  · simp only [mkr, h, if_false]

theorem mkc_neg {sz : GridSize} {p : Pos} (c : Nat) (n : Int) (hp : posValid sz p) :
    mkc sz (mkc sz p c n) c (-n) = p := by
  by_cases h : p.col.toNat = c
  · simp only [mkc, h, if_true]
    exact pos_ext (modSize_modSize_add hp.1 (Int.add_neg_cancel_right _ _)) rfl
  · simp only [mkc, h, if_false]

/-! ### The cells after a rotation are the cells before it (R129 law 1) -/

theorem toList_eq_map_cell (G : Grid) : G.toList = (List.range 64).map (cell G) := by
  refine List.ext_getElem (by simp) fun k hk _ => ?_
  rw [Vector.length_toList] at hk
  simp [cell_eq_getElem G k hk]

/-- An injective map of `0 .. n-1` into itself permutes it. -/
theorem map_range_perm {σ : Nat → Nat} {n : Nat} (hlt : ∀ k, k < n → σ k < n)
    (hinj : ∀ j, j < n → ∀ k, k < n → σ j = σ k → j = k) : ((List.range n).map σ).Perm (List.range n) := by
  have hnodup : ((List.range n).map σ).Nodup :=
    List.nodup_range.map_on fun j hj k hk => hinj j (List.mem_range.1 hj) k (List.mem_range.1 hk)
  have hsub : (List.range n).map σ ⊆ List.range n := by
    intro x hx
    obtain ⟨k, hk, rfl⟩ := List.mem_map.1 hx
    exact List.mem_range.2 (hlt k (List.mem_range.1 hk))
  exact (List.subperm_of_subset hnodup hsub).perm_of_length_le (by simp)

/-- Where the cell with index `k` goes when the tiles move by `f`. -/
def tileIndex (sz : GridSize) (f : Pos → Pos) (k : Nat) : Nat :=
  if k < sz.count then flat sz (f (posOfFlat sz k)) else k

section
variable {sz : GridSize} {f : Pos → Pos} {G H : Grid} (h : TilesMove sz f G H)
include h

theorem TilesMove.flat_lt {k : Nat} (hk : k < sz.count) : flat sz (f (posOfFlat sz k)) < sz.count :=
  Machine.flat_lt (h.valid _ (posOfFlat_valid sz hk))

theorem TilesMove.tileIndex_lt {k : Nat} (hk : k < 64) : tileIndex sz f k < 64 := by
  have hcount := count_le sz
  rw [tileIndex]
  split
  next hn => exact Nat.lt_of_lt_of_le (h.flat_lt hn) (by omega)
  next => exact hk

theorem TilesMove.tileIndex_inj (hf : Set.InjOn f {p | posValid sz p}) {j k : Nat} (e : tileIndex sz f j = tileIndex sz f k) :
    j = k := by
  rw [tileIndex, tileIndex] at e
  split at e <;> split at e
  next hj hk =>
    have hpos : f (posOfFlat sz j) = f (posOfFlat sz k) := by
      rw [← posOfFlat_flat (h.valid _ (posOfFlat_valid sz hj)), e, posOfFlat_flat (h.valid _ (posOfFlat_valid sz hk))]
    rw [← flat_posOfFlat sz hj, hf (posOfFlat_valid sz hj) (posOfFlat_valid sz hk) hpos, flat_posOfFlat sz hk]
  next hj hk => exact absurd (e ▸ h.flat_lt hj) hk
  next hj hk => exact absurd (e ▸ h.flat_lt hk) hj
  next => exact e

theorem TilesMove.cell_tileIndex {k : Nat} (hk : k < 64) : cell H (tileIndex sz f k) = cell G k := by
  rw [tileIndex]
  split
  next hn => exact (h.tile _ (posOfFlat_valid sz hn)).trans (congrArg (cell G) (flat_posOfFlat sz hn))
  next hn => exact h.high k (Nat.le_of_not_lt hn) hk

/-- Tiles that move to distinct positions are the same tiles, each in a new place. -/
theorem TilesMove.perm (hf : Set.InjOn f {p | posValid sz p}) : H.toList.Perm G.toList := by
  have hperm : ((List.range 64).map (tileIndex sz f)).Perm (List.range 64) :=
    map_range_perm (fun _ hk => h.tileIndex_lt hk) (fun _ _ _ _ e => h.tileIndex_inj hf e)
  have hG : ((List.range 64).map (tileIndex sz f)).map (cell H) = G.toList := by
    rw [toList_eq_map_cell, List.map_map]
    exact List.map_congr_left fun k hk => h.cell_tileIndex (List.mem_range.1 hk)
  rw [← hG, toList_eq_map_cell H]
  exact (hperm.map (cell H)).symm

end

theorem rotr_perm (sz : GridSize) (G : Grid) (r : Nat) (n : Int) : (rotr sz G r n).toList.Perm G.toList :=
  (tilesMove_rotr sz G r n).perm (Set.LeftInvOn.injOn (f₁' := (mkr sz · r (-n))) fun _ hp => mkr_neg r n hp)

theorem rotc_perm (sz : GridSize) (G : Grid) (c : Nat) (n : Int) : (rotc sz G c n).toList.Perm G.toList :=
  (tilesMove_rotc sz G c n).perm (Set.LeftInvOn.injOn (f₁' := (mkc sz · c (-n))) fun _ hp => mkc_neg c n hp)

/-- Settles O30: the tiles move to distinct positions, as the opposite adjustment brings each position back. -/
theorem rotationsPermuteTheCells : Obligations.RotationsPermuteTheCells := fun sz G line n _ =>
  ⟨rotr_perm sz G line n, rotc_perm sz G line n, fun hG => ⟨gridValid_rotr line n hG, gridValid_rotc line n hG⟩⟩

/-! ### The search follows the tiles (R129 law 5) -/

/-- A symbol is found where its tile has moved to; a symbol that is found after a move was there before, as the tiles can be moved
back. -/
theorem posof_of_tilesMove {sz : GridSize} {f g : Pos → Pos} {G H : Grid} (h : TilesMove sz f G H) (hback : TilesMove sz g H G)
    (hH : gridValid sz H) (v : Sym) : posof sz H v = (posof sz G v).map f := by
  cases hp : posof sz G v with
  | some p =>
    obtain ⟨hvalid, rfl⟩ := posof_some hp
    rw [← h.tile p hvalid, posof_symat hH (h.valid p hvalid), Option.map_some]
  | none =>
    cases hq : posof sz H v with
    | none => rfl
    | some q =>
      obtain ⟨hvalid, rfl⟩ := posof_some hq
      exact absurd (hback.tile q hvalid) (posof_none.1 hp _ (flat_lt (hback.valid q hvalid)))

/-- Settles O32: a rotation moves the tiles as the marker adjustment says, and the opposite rotation moves them back. -/
theorem markerStaysAttachedToItsTile : Obligations.MarkerStaysAttachedToItsTile := by
  intro sz G line n v _ hG
  have hrow := tilesMove_rotr sz (rotr sz G line n) line (-n)
  have hcol := tilesMove_rotc sz (rotc sz G line n) line (-n)
  rw [rotr_neg] at hrow
  rw [rotc_neg] at hcol
  exact ⟨posof_of_tilesMove (tilesMove_rotr sz G line n) hrow (gridValid_rotr line n hG) v,
    posof_of_tilesMove (tilesMove_rotc sz G line n) hcol (gridValid_rotc line n hG) v⟩

/-! ### The operator commands on a configured block with a grid (R131 to R135) -/

/-- `posof` answers the position of the first cell that holds the symbol (R124). -/
theorem posof_of_first {sz : GridSize} {G : Grid} {v : Sym} {k : Nat} (hk : k < sz.count) (hv : cell G k = v)
    (hfirst : ∀ j, j < k → cell G j ≠ v) : posof sz G v = some (posOfFlat sz k) := by
  have hfind : (List.range sz.count).find? (fun j => cell G j == v) = some k := by
    rw [List.find?_range_eq_some]
    exact ⟨by simp [hv], List.mem_range.2 hk, fun j hj => by simp [hfirst j hj]⟩
  rw [posof, hfind, Option.map_some]

/-- The adjustment of `mkr` with the line given by its bits, as ROTR.M makes it (R127, R133). -/
theorem mkr_toNat (sz : GridSize) (M : Pos) (line : BitVec 3) (n : Int) :
    mkr sz M line.toNat n = if M.row = line then ⟨M.row, modSize sz ((M.col.toNat : Int) + n)⟩ else M := by
  simp only [mkr, BitVec.toNat_inj]

theorem mkc_toNat (sz : GridSize) (M : Pos) (line : BitVec 3) (n : Int) :
    mkc sz M line.toNat n = if M.col = line then ⟨modSize sz ((M.row.toNat : Int) + n), M.col⟩ else M := by
  simp only [mkc, BitVec.toNat_inj]

section
variable {s : State} {sz : GridSize} (hsz : s.config.size = some sz) (hg : s.status.gridvalid = true)
include hsz hg

theorem exec_symat {row col : BitVec 3} (hrow : row.toNat < sz.side) (hcol : col.toNat < sz.side) :
    exec (.symat row col) s = .next (succeed { s with rsym := symat sz s.grid ⟨row, col⟩ }) := by
  rw [exec, execSymat, configured_some hsz, if_neg (by simp [posInRange, lineInRange, hrow, hcol]), if_neg (by simp [hg])]

theorem exec_posof_some {v : Sym} {p : Pos} (hp : posof sz s.grid v = some p) :
    exec (.posof v) s = .next (succeed { s with rpos := p }) := by
  rw [exec, execPosof, configured_some hsz, if_neg (by simp [hg]), hp]

theorem exec_posof_none {v : Sym} (hp : posof sz s.grid v = none) : exec (.posof v) s = .next (fatal s) := by
  rw [exec, execPosof, configured_some hsz, if_neg (by simp [hg]), hp]

theorem exec_rotr (m : Bool) {line : BitVec 3} (n : Int) (hline : line.toNat < sz.side) :
    exec (.rotr m line n) s = .next (succeed { s with
      grid := rotr sz s.grid line.toNat n
      marker := if m then mkr sz s.marker line.toNat n else s.marker }) := by
  rw [exec, execRotr, configured_some hsz, if_neg (by simp [lineInRange, hline]), if_neg (by simp [hg])]

theorem exec_rotc (m : Bool) {line : BitVec 3} (n : Int) (hline : line.toNat < sz.side) :
    exec (.rotc m line n) s = .next (succeed { s with
      grid := rotc sz s.grid line.toNat n
      marker := if m then mkc sz s.marker line.toNat n else s.marker }) := by
  rw [exec, execRotc, configured_some hsz, if_neg (by simp [lineInRange, hline]), if_neg (by simp [hg])]

theorem exec_mkadv {v : Sym} (hv : v.toNat < sz.count) :
    exec (.mkadv v) s = .next (succeed { s with marker := padd sz s.marker (ix sz v) }) := by
  rw [exec, execMkadv, configured_some hsz, if_neg (by simp [symInRange, hv]), if_neg (by simp [hg])]

end

/-- Settles O33: no check fails, and the flat index of a position is `row * size + col`. -/
theorem symatReadsTheGrid : Obligations.SymatReadsTheGrid := fun _ _ _ _ hsz hrow hcol hg => exec_symat hsz hg hrow hcol

/-- Settles O34: the search answers the first cell that holds the symbol, or nothing. -/
theorem posofFindsTheSymbolOrIsFatal : Obligations.PosofFindsTheSymbolOrIsFatal := fun _ _ _ hsz hg =>
  ⟨fun _ hk hv hfirst => exec_posof_some hsz hg (posof_of_first hk hv hfirst),
    fun habsent => exec_posof_none hsz hg (posof_none.2 habsent)⟩

/-- Settles O35: the tile of column `c` is found in column `(c + n) mod size`, and no cell outside the row takes part. -/
theorem rotrRotatesTheRow : Obligations.RotrRotatesTheRow := by
  intro s sz m line n hsz hline hg
  refine ⟨rotr sz s.grid line.toNat n, ?_, fun c hc => ?_, fun k hk hout => cell_rotr_of_not _ n hk hout⟩
  · rw [exec_rotr hsz hg m n hline, mkr_toNat, ← ite_and]
    rfl
  · rw [← toNat_modSize]
    exact cell_rotr_moved s.grid n hline hc

/-- Settles O36: as O35, by rows. -/
theorem rotcRotatesTheColumn : Obligations.RotcRotatesTheColumn := by
  intro s sz m line n hsz hline hg
  refine ⟨rotc sz s.grid line.toNat n, ?_, fun r hr => ?_, fun k hk hout => cell_rotc_of_not _ n hk hout⟩
  · rw [exec_rotc hsz hg m n hline, mkc_toNat, ← ite_and]
    rfl
  · rw [← toNat_modSize]
    exact cell_rotc_moved s.grid n hr hline

/-- Advancing by the canonical position of a symbol of the alphabet (R120, R135). -/
theorem padd_ix {sz : GridSize} {v : Sym} (M : Pos) (hv : v.toNat < sz.count) :
    padd sz M (ix sz v) = ⟨BitVec.ofNat 3 ((M.row.toNat + v.toNat / sz.side) % sz.side),
      BitVec.ofNat 3 ((M.col.toNat + v.toNat % sz.side) % sz.side)⟩ := by
  rw [padd, ix, posOfFlat_row sz hv, posOfFlat_col, ← Int.natCast_add, ← Int.natCast_add, modSize_natCast, modSize_natCast]

/-- Settles O37: no check fails, and each component advances as a natural number modulo `size`. -/
theorem mkadvAdvancesTheMarker : Obligations.MkadvAdvancesTheMarker := by
  intro s sz v hsz hv hg
  rw [exec_mkadv hsz hg hv, padd_ix s.marker hv]
  rfl

end Sys2Proof.Machine

/-! PROOFS of the family 41_key_derivation. First what key validation reports (O42), then the permutation fold symbol by symbol, then
what INIT, KEYLIT, KEYDRV, CHKKEY and CHKMSG complete to on good input (O38 to O41, O43) and on a bad key (O57). -/

namespace Sys2Proof.Machine

open Sys2Proof.Claims

/-! ### What key validation reports (R151) -/

theorem getLsbD_keycheck_ill (sz : GridSize) (buf : List Sym) {v : Nat} (hv : v < 64) :
    (keycheck sz buf).ill.getLsbD v = true ↔ sz.count ≤ v ∧ ∃ x ∈ buf, x.toNat = v := by
  simp [keycheck, badset, getLsbD_symSetOf _ v hv]

theorem occurrences_eq_zero {buf : List Sym} {v : Nat} : occurrences buf v = 0 ↔ ∀ x ∈ buf, x.toNat ≠ v := by
  simp [occurrences, List.countP_eq_zero]

theorem getLsbD_keycheck_miss (sz : GridSize) (buf : List Sym) {v : Nat} (hv : v < 64) :
    (keycheck sz buf).miss.getLsbD v = true ↔ v < sz.count ∧ ∀ x ∈ buf, x.toNat ≠ v := by
  simp [keycheck, getLsbD_symSetOf _ v hv, occurrences_eq_zero]

theorem occurrences_eq_count_map (buf : List Sym) (v : Nat) : occurrences buf v = (buf.map BitVec.toNat).count v := by
  rw [occurrences, List.count, List.countP_map]
  rfl

theorem getLsbD_keycheck_dup (sz : GridSize) (buf : List Sym) {v : Nat} (hv : v < 64) :
    (keycheck sz buf).dup.getLsbD v = true ↔ v < sz.count ∧ 2 ≤ (buf.map BitVec.toNat).count v := by
  simp [keycheck, getLsbD_symSetOf _ v hv, occurrences_eq_count_map]

/-- The codes of a list, as numbers, are those of the list itself. -/
theorem nodup_map_toNat {buf : List Sym} : (buf.map BitVec.toNat).Nodup ↔ buf.Nodup :=
  List.nodup_map_iff fun _ _ => BitVec.eq_of_toNat_eq

/-- A list of codes is a permutation of the alphabet when it stays in it, misses nothing and repeats nothing. -/
theorem perm_range_iff {sz : GridSize} {buf : List Sym} : (buf.map BitVec.toNat).Perm (List.range sz.count) ↔
    (∀ x ∈ buf, x.toNat < sz.count) ∧ (∀ x : Sym, x.toNat < sz.count → x ∈ buf) ∧ buf.Nodup := by
  constructor
  · intro h
    refine ⟨fun x hx => ?_, fun x hx => ?_, nodup_map_toNat.1 (h.nodup_iff.2 List.nodup_range)⟩
    · exact List.mem_range.1 (h.mem_iff.1 (List.mem_map_of_mem hx))
    · obtain ⟨y, hy, e⟩ := List.mem_map.1 (h.mem_iff.2 (List.mem_range.2 hx))
      exact BitVec.eq_of_toNat_eq e ▸ hy
  · rintro ⟨hlt, hall, hnodup⟩
    refine (List.perm_ext_iff_of_nodup (nodup_map_toNat.2 hnodup) List.nodup_range).2 fun v => ?_
    rw [List.mem_range, List.mem_map]
    constructor
    · rintro ⟨x, hx, rfl⟩
      exact hlt x hx
    · intro hv
      have hcode : (BitVec.ofNat 6 v).toNat = v := toNat_ofNat_of_lt_count hv
      exact ⟨_, hall _ (hcode.symm ▸ hv), hcode⟩

/-- Key validation finds nothing exactly in a permutation of the alphabet (R151). -/
theorem keycheck_eq_noFindings_iff {sz : GridSize} {buf : List Sym} :
    keycheck sz buf = noFindings ↔ (buf.map BitVec.toNat).Perm (List.range sz.count) := by
  rw [perm_range_iff]
  refine ⟨keycheck_eq_noFindings, fun ⟨hlt, hall, hnodup⟩ => ?_⟩
  have hill : (keycheck sz buf).ill = 0 := (badset_eq_zero sz buf).2 hlt
  have hmiss : (keycheck sz buf).miss = 0 := keycheck_miss_eq_zero.2 hall
  have hdup : (keycheck sz buf).dup = 0 := keycheck_dup_eq_zero.2 fun x _ => List.nodup_iff_count_le_one.1 hnodup x
  calc keycheck sz buf = ⟨(keycheck sz buf).ill, (keycheck sz buf).miss, (keycheck sz buf).dup⟩ := rfl
    _ = noFindings := by rw [hill, hmiss, hdup, noFindings]

/-- Settles O42: each finding set bit by bit, and no findings exactly for a permutation. -/
theorem keyValidationIsComplete : Obligations.KeyValidationIsComplete := fun sz buf =>
  ⟨fun _ hv => ⟨getLsbD_keycheck_ill sz buf hv, getLsbD_keycheck_miss sz buf hv, getLsbD_keycheck_dup sz buf hv⟩,
    keycheck_eq_noFindings_iff⟩

/-! ### The input of the key commands -/

theorem badset_input_eq_zero {sz : GridSize} {s : State} : badset sz (input s) = 0 ↔ clean sz s 0 s.len.toNat := by
  rw [badset_eq_zero]
  constructor
  · exact fun h k _ hk => h _ (mem_input.2 ⟨k, hk, rfl⟩)
  · intro h x hx
    obtain ⟨k, hk, rfl⟩ := mem_input.1 hx
    exact h k (Nat.zero_le k) hk

theorem input_eq_of_agree {s t : State} (hlen : s.len = t.len) (h : ∀ k, k < s.len.toNat → ibufAt s k = ibufAt t k) :
    input s = input t := by
  rw [input, input, ← hlen]
  exact List.map_congr_left fun k hk => h k (List.mem_range.1 hk)

/-- `N` distinct codes of the alphabet are a permutation of it. -/
theorem keycheck_input_eq_noFindings {sz : GridSize} {s : State} (hlen : s.len.toNat = sz.count) (hclean : clean sz s 0 s.len.toNat)
    (hinj : ∀ j k, j < sz.count → k < sz.count → ibufAt s j = ibufAt s k → j = k) : keycheck sz (input s) = noFindings := by
  rw [keycheck_eq_noFindings_iff, input, List.map_map, hlen]
  refine map_range_perm (fun k hk => hclean k (Nat.zero_le k) (hlen ▸ hk)) fun j hj k hk e => ?_
  exact hinj j k hj hk (BitVec.eq_of_toNat_eq e)

/-! ### The permutation fold, symbol by symbol (R150) -/

/-- The row and the column that the last symbol of a keyword rotates are given by how many symbols stand before it. -/
theorem deriveFrom_concat (sz : GridSize) (i : Nat) (G : Grid) (kw : List Sym) (v : Sym) :
    deriveFrom sz (i % sz.side) G (kw ++ [v]) =
      rotc sz (rotr sz (deriveFrom sz (i % sz.side) G kw) ((i + kw.length) % sz.side) (ix sz v).col.toNat)
        ((i + kw.length) % sz.side) (ix sz v).row.toNat := by
  induction kw generalizing i G with
  | nil => rfl
  | cons w kw ih =>
    simp only [List.cons_append, deriveFrom, Nat.mod_add_mod, ih, List.length_cons, Nat.add_assoc, Nat.add_comm 1]

/-- One more symbol of the keyword is one more row rotation by its canonical column and column rotation by its canonical row. -/
theorem derive_concat {sz : GridSize} (kw : List Sym) {v : Sym} (hv : v.toNat < sz.count) :
    derive sz (kw ++ [v]) =
      rotc sz (rotr sz (derive sz kw) (kw.length % sz.side) (v.toNat % sz.side : Nat)) (kw.length % sz.side)
        (v.toNat / sz.side : Nat) := by
  have h := deriveFrom_concat sz 0 (identityGrid sz) kw v
  rwa [Nat.zero_mod, Nat.zero_add, ix, posOfFlat_col, posOfFlat_row sz hv] at h

theorem input_take_succ (s : State) {j : Nat} (hj : j < s.len.toNat) :
    (input s).take (j + 1) = (input s).take j ++ [ibufAt s j] := by
  have hj' : j < (input s).length := by rwa [input_length]
  rw [← input_getElem s j hj', List.take_concat_get']

/-- The permutation fold over the first `j` symbols of the input. -/
def inputFold (sz : GridSize) (s : State) (j : Nat) : Grid := derive sz ((input s).take j)

theorem inputFold_len (sz : GridSize) (s : State) : inputFold sz s s.len.toNat = derive sz (input s) := by
  rw [inputFold, List.take_of_length_le (input_length s).le]

theorem cell_inputFold_zero (sz : GridSize) (s : State) {k : Nat} (hk : k < sz.count) : (cell (inputFold sz s 0) k).toNat = k :=
  (congrArg BitVec.toNat (cell_identityGrid sz hk)).trans (toNat_ofNat_of_lt_count hk)

theorem inputFold_succ {sz : GridSize} {s : State} (hclean : clean sz s 0 s.len.toNat) {j : Nat} (hj : j < s.len.toNat) :
    inputFold sz s (j + 1) =
      rotc sz (rotr sz (inputFold sz s j) (j % sz.side) ((ibufAt s j).toNat % sz.side : Nat)) (j % sz.side)
        ((ibufAt s j).toNat / sz.side : Nat) := by
  have hlength : ((input s).take j).length = j := by rw [List.length_take, input_length]; omega
  rw [inputFold, input_take_succ s hj, derive_concat _ (hclean j (Nat.zero_le j) hj), hlength, inputFold]

/-! ### Grids stored below `N` -/

theorem copiedFrom_storeCells (sz : GridSize) (H old : Grid) : copiedFrom sz (storeCells sz.count (cell H) old) H old :=
  ⟨fun _ hk => cell_storeCells_lt _ _ hk, fun k hn hk => by rw [cell_storeCells _ _ _ hk, if_neg (by omega)]⟩

theorem copiedFrom_trans {sz : GridSize} {F G H old old' : Grid} (hF : copiedFrom sz F G old) (hG : copiedFrom sz G H old') :
    copiedFrom sz F H old := ⟨fun k hk => (hF.1 k hk).trans (hG.1 k hk), hF.2⟩

/-! ### What the outcomes leave, in the words of the claims -/

theorem succeed_eq_done (s : State) : succeed s = done s := rfl

theorem toNat_append_eq_add {n m : Nat} (x : BitVec n) (y : BitVec m) : (x ++ y).toNat = x.toNat * 2 ^ m + y.toNat := by
  rw [BitVec.toNat_append, ← Nat.shiftLeft_add_eq_or_of_lt y.isLt, Nat.shiftLeft_eq]

/-- `F_ILL`, `F_MISS` or `F_DUP` of its finding set (10_state R29). -/
theorem toNat_findingFlag (f : SymSet) : (BitVec.ofBool (f != 0)).toNat = if f = 0 then 0 else 1 := by
  by_cases h : f = 0
  · rw [if_pos h, h]; rfl
  · rw [if_neg h, bne_iff_ne.2 h]; rfl

/-- The fields of `ECODE` put together are the sum of their values (R29). -/
theorem ecodeOf_eq_ecodeWith (c : BitVec 8) (f : Findings) : ecodeOf c f = ecodeWith c f := by
  have hc := c.isLt
  apply BitVec.eq_of_toNat_eq
  simp only [ecodeOf, ecodeWith, toNat_append_eq_add, toNat_findingFlag, BitVec.toNat_ofNat]
  split <;> split <;> split <;> omega

theorem fail_eq_failed (e : CmdError) (f : Findings) (s : State) : fail e f s = failed (errorCode e) f s := by
  rw [fail, failed, ecodeOf_eq_ecodeWith]
  rfl

/-! ### The key commands on a configured block (R152 to R155, R202) -/

section
variable {s : State} {sz : GridSize} (hsz : s.config.size = some sz)
include hsz

theorem exec_init (hk : s.status.keyvalid = true) : exec .init s = .next (succeed (startCall sz s)) := by
  rw [exec, execInit, configured_some hsz, if_neg (by simp [hk])]

theorem exec_keylit : exec .keylit s = .next (if keycheck sz (input s) = noFindings
    then succeed { startCall sz (loadKey sz (ibufAt s) s) with idx := s.len }
    else failKeyInput .invalidKey (keycheck sz (input s)) s) := by
  rw [exec, execKeylit, configured_some hsz]

theorem exec_keydrv : exec .keydrv s = .next (if badset sz (input s) = 0
    then succeed { startCall sz (loadKey sz (cell (derive sz (input s))) s) with idx := s.len }
    else failKeyInput .invalidKeyword (illFindings (badset sz (input s))) s) := by
  rw [exec, execKeydrv, configured_some hsz]

theorem exec_chkkey : exec .chkkey s = .next (if keycheck sz (input s) = noFindings
    then succeed { s with idx := s.len }
    else failKeyInput .invalidKey (keycheck sz (input s)) s) := by
  rw [exec, execChkkey, configured_some hsz]

theorem exec_chkmsg {kind : BitVec 2} {name : MsgKind} (hkind : msgKind kind = some name) :
    exec (.chkmsg kind) s = .next (if badset sz (input s) = 0
      then succeed { s with idx := s.len }
      else failKeyInput (msgKindError name) (illFindings (badset sz (input s))) s) := by
  rw [exec, execChkmsg, configured_some hsz, hkind]

/-- KEYDRV of a keyword over the alphabet (R154). -/
theorem exec_keydrv_clean (h : clean sz s 0 s.len.toNat) :
    exec .keydrv s = .next (succeed { startCall sz (loadKey sz (cell (derive sz (input s))) s) with idx := s.len }) := by
  rw [exec_keydrv hsz, if_pos (badset_input_eq_zero.2 h)]

end

/-- Every kind but 3 names an input (R202). -/
theorem msgKind_isSome : ∀ kind : BitVec 2, kind ≠ 3 → (msgKind kind).isSome = true := by decide

/-- Settles O38: the call starts from the stored cells of `KEY`. -/
theorem initStartsACall : Obligations.InitStartsACall := fun s sz hsz hk =>
  ⟨_, copiedFrom_storeCells sz s.key s.grid, exec_init hsz hk⟩

/-- Settles O39: a permutation passes key validation. -/
theorem keylitLoadsAPermutation : Obligations.KeylitLoadsAPermutation := by
  intro s sz hsz hlen hclean hinj
  refine ⟨storeCells sz.count (ibufAt s) s.key, _, fun _ hk => cell_storeCells_lt _ _ hk, fun _ hn hk => ?_,
    copiedFrom_storeCells sz _ s.grid, ?_⟩
  · rw [cell_storeCells _ _ _ hk, if_neg (Nat.not_lt.2 hn)]
  · rw [exec_keylit hsz, if_pos (keycheck_input_eq_noFindings hlen hclean hinj)]
    rfl

/-- Settles O40: the folds over the first `j` symbols of the keyword are the chain the statement asks for. -/
theorem keydrvFoldsTheKeyword : Obligations.KeydrvFoldsTheKeyword := by
  intro s sz hsz hclean
  have hkey := copiedFrom_storeCells sz (inputFold sz s s.len.toNat) s.key
  refine ⟨inputFold sz s, _, _, fun _ hk => cell_inputFold_zero sz s hk, fun _ hj => inputFold_succ hclean hj, hkey,
    copiedFrom_trans (copiedFrom_storeCells sz _ s.grid) hkey, ?_⟩
  rw [exec_keydrv_clean hsz hclean, inputFold_len]
  rfl

/-- Settles O41: good input leaves validation with nothing found. -/
theorem checksSucceedOnGoodInput : Obligations.ChecksSucceedOnGoodInput := by
  intro s sz hsz hclean
  refine ⟨fun hlen hinj => ?_, fun kind hkind => ?_⟩
  · rw [exec_chkkey hsz, if_pos (keycheck_input_eq_noFindings hlen hclean hinj), succeed_eq_done]
  · obtain ⟨_, hname⟩ := Option.isSome_iff_exists.1 (msgKind_isSome kind hkind)
    rw [exec_chkmsg hsz hname, if_pos (badset_input_eq_zero.2 hclean), succeed_eq_done]

/-- Settles O43: the key is the fold of the input, which the two states have in common. -/
theorem derivationIsDeterministic : Obligations.DerivationIsDeterministic := by
  intro s1 s2 sz hsz1 hsz2 hlen hagree hclean
  have hinput := input_eq_of_agree hlen hagree
  have hclean2 : clean sz s2 0 s2.len.toNat := badset_input_eq_zero.1 (hinput ▸ badset_input_eq_zero.2 hclean)
  refine ⟨_, _, exec_keydrv_clean hsz1 hclean, exec_keydrv_clean hsz2 hclean2, gridValid_copy s1.key (gridValid_derive sz _),
    fun k hk => ?_⟩
  calc cell (storeCells sz.count (cell (derive sz (input s1))) s1.key) k
      = cell (derive sz (input s1)) k := cell_storeCells_lt _ _ hk
    _ = cell (derive sz (input s2)) k := by rw [hinput]
    _ = cell (storeCells sz.count (cell (derive sz (input s2))) s2.key) k := (cell_storeCells_lt _ _ hk).symm

/-- Settles O57: what is no permutation has findings, and both commands report them. -/
theorem badKeysAreReported : Obligations.BadKeysAreReported := by
  intro s sz hsz hperm
  have hbad : keycheck sz (input s) ≠ noFindings := mt keycheck_eq_noFindings_iff.1 hperm
  rw [exec_keylit hsz, exec_chkkey hsz, if_neg hbad, if_neg hbad, failKeyInput, fail_eq_failed]
  exact ⟨rfl, rfl⟩

end Sys2Proof.Machine

/-! PROOFS of the family 42_cipher_step. First that the shared update always has an answer, then the two steps from the position of the
plaintext symbol (O44), their symmetry (O45), and ENC1 and DEC1 (O46). -/

namespace Sys2Proof.Machine

open Sys2Proof.Claims

/-! ### The two steps from the plaintext position (R171 to R173) -/

theorem padd_psub {sz : GridSize} {a : Pos} (b : Pos) (ha : posValid sz a) : padd sz (psub sz a b) b = a := by
  obtain ⟨hrow, hcol⟩ := ha
  exact pos_ext (modSize_modSize_add hrow (Int.sub_add_cancel _ _)) (modSize_modSize_add hcol (Int.sub_add_cancel _ _))

/-- Following the tile of a row and then of a column is one adjustment of the marker, which only the co-rotating mode makes (R176). -/
theorem adjust_mkc_adjust_mkr (sz : GridSize) (mode : MarkerMode) (M : Pos) (r c : Nat) (n m : Int) :
    adjust mode (mkc sz (adjust mode (mkr sz M r n) M) c m) (adjust mode (mkr sz M r n) M)
      = adjust mode (mkc sz (mkr sz M r n) c m) M := by
  cases mode <;> rfl

/-- The row rotation keeps the grid valid, so the ciphertext symbol is found after it (R171). -/
theorem exists_tail {sz : GridSize} (mode : MarkerMode) {W : Work} (pp : Pos) {c : Sym} (hG : gridValid sz W.grid)
    (hc : c.toNat < sz.count) : ∃ W', tail sz mode W pp c = some W' := by
  obtain ⟨cp', hcp⟩ := exists_posof (gridValid_rotr pp.row.toNat 1 hG) hc
  exact ⟨_, by simp only [tail, hcp]; rfl⟩

theorem encstep_of_tail {sz : GridSize} {mode : MarkerMode} {W W' : Work} {p c : Sym} {pp : Pos} (hpp : posof sz W.grid p = some pp)
    (hc : symat sz W.grid (padd sz pp (mix sz W)) = c) (ht : tail sz mode W pp c = some W') :
    encstep sz mode W p = some (W', c) := by
  simp only [encstep, hpp, hc, ht]

theorem decstep_of_tail {sz : GridSize} {mode : MarkerMode} {W W' : Work} {c : Sym} {cp pp : Pos} (hcp : posof sz W.grid c = some cp)
    (hpp : psub sz cp (mix sz W) = pp) (ht : tail sz mode W pp c = some W') :
    decstep sz mode W c = some (W', symat sz W.grid pp) := by
  simp only [decstep, hcp, hpp, ht]

/-- Both directions see the same pair of a plaintext position and a ciphertext symbol, and make the same update (R174): the search
finds the position of the symbol that it holds, and subtracting the keystream offset undoes adding it. -/
theorem steps_of_tail {sz : GridSize} {mode : MarkerMode} {W W' : Work} {c : Sym} {pp : Pos} (hG : gridValid sz W.grid)
    (hpp : posValid sz pp) (hc : symat sz W.grid (padd sz pp (mix sz W)) = c) (ht : tail sz mode W pp c = some W') :
    encstep sz mode W (symat sz W.grid pp) = some (W', c) ∧ decstep sz mode W c = some (W', symat sz W.grid pp) := by
  have hcp : posof sz W.grid c = some (padd sz pp (mix sz W)) := hc ▸ posof_symat hG (padd_valid sz pp (mix sz W))
  exact ⟨encstep_of_tail (posof_symat hG hpp) hc ht, decstep_of_tail hcp (psub_padd _ hpp) ht⟩

/-- Settles O44: the ciphertext symbol lies in the alphabet, so the update has an answer, which both steps give. -/
theorem cipherStepFollowsTheRules : Obligations.CipherStepFollowsTheRules := by
  intro sz mode W pp hG _ hpp p c
  obtain ⟨W', ht⟩ := exists_tail mode pp hG (symat_lt hG (padd_valid sz pp (mix sz W)))
  obtain ⟨henc, hdec⟩ := steps_of_tail hG hpp rfl ht
  obtain ⟨cp', hcp, rfl⟩ := tail_cases ht
  obtain ⟨hvalid, hsym⟩ := posof_some hcp
  refine ⟨_, cp', henc, hdec, hvalid, hsym, rfl, ?_⟩
  rw [adjust_mkc_adjust_mkr]
  cases mode <;> rfl

/-- Settles O45: an answer of either step comes from a plaintext position, at which `steps_of_tail` gives the answer of the other. -/
theorem stepSymmetry : Obligations.StepSymmetry := by
  intro sz mode W W' p c hG _
  refine ⟨fun _ henc => ?_, fun _ hdec => ?_⟩
  · obtain ⟨pp, hpp, rfl, ht⟩ := encstep_cases henc
    obtain ⟨hvalid, rfl⟩ := posof_some hpp
    exact (steps_of_tail hG hvalid rfl ht).2
  · obtain ⟨cp, hcp, rfl, ht⟩ := decstep_cases hdec
    obtain ⟨hvalid, rfl⟩ := posof_some hcp
    exact (steps_of_tail hG (psub_valid sz cp (mix sz W)) (by rw [padd_psub _ hvalid]) ht).1

/-! ### ENC1 and DEC1 of a symbol of the alphabet (R177, R178) -/

/-- A single step on a valid working state has an answer, which is a valid working state and a symbol of the alphabet. -/
abbrev stepAnswers (sz : GridSize) (f : Work → Sym → Option (Work × Sym)) : Prop :=
  ∀ {W : Work} {x : Sym}, workValid sz W → x.toNat < sz.count →
    ∃ W' y, f W x = some (W', y) ∧ workValid sz W' ∧ y.toNat < sz.count

theorem encstep_answers (sz : GridSize) (mode : MarkerMode) : stepAnswers sz (encstep sz mode) := by
  intro W p hW hp
  have hG := hW.1
  obtain ⟨pp, hpp⟩ := exists_posof hG hp
  have hc := symat_lt hG (padd_valid sz pp (mix sz W))
  obtain ⟨W', ht⟩ := exists_tail mode pp hG hc
  exact ⟨W', _, encstep_of_tail hpp rfl ht, tail_valid hW ht, hc⟩

theorem decstep_answers (sz : GridSize) (mode : MarkerMode) : stepAnswers sz (decstep sz mode) := by
  intro W c hW hc
  have hG := hW.1
  obtain ⟨cp, hcp⟩ := exists_posof hG hc
  obtain ⟨W', ht⟩ := exists_tail mode (psub sz cp (mix sz W)) hG hc
  exact ⟨W', _, decstep_of_tail hcp rfl ht, tail_valid hW ht, symat_lt hG (psub_valid sz cp (mix sz W))⟩

theorem applyStep_some {f : Work → Sym → Option (Work × Sym)} {v y : Sym} {s : State} {W : Work}
    (h : f ⟨s.grid, s.marker⟩ v = some (W, y)) :
    applyStep f v s = succeed { s with grid := W.grid, marker := W.marker, rsym := y } := by
  rw [applyStep, h]

section
variable {s : State} {sz : GridSize} (hsz : s.config.size = some sz) (hg : s.status.gridvalid = true)
include hsz hg

theorem exec_enc1 {v : Sym} (hv : v.toNat < sz.count) : exec (.enc1 v) s = .next (applyStep (encstep sz s.config.mmode) v s) := by
  rw [exec, execEnc1, configured_some hsz, if_neg (by simp [hg]), if_neg (by simp [symInRange, hv])]

theorem exec_dec1 {v : Sym} (hv : v.toNat < sz.count) : exec (.dec1 v) s = .next (applyStep (decstep sz s.config.mmode) v s) := by
  rw [exec, execDec1, configured_some hsz, if_neg (by simp [hg]), if_neg (by simp [symInRange, hv])]

end

/-- Settles O46: no check fails, and a step of a symbol of the alphabet has an answer, which the command stores. -/
theorem singleStepsComplete : Obligations.SingleStepsComplete := by
  intro s sz v hsz hg hgrid hmarker hv
  have hW : workValid sz ⟨s.grid, s.marker⟩ := ⟨hgrid, hmarker⟩
  obtain ⟨W, c, henc, ⟨hWgrid, hWmarker⟩, hc⟩ := encstep_answers sz s.config.mmode hW hv
  obtain ⟨V, p, hdec, ⟨hVgrid, hVmarker⟩, hp⟩ := decstep_answers sz s.config.mmode hW hv
  refine ⟨⟨W, c, henc, hWgrid, hWmarker, hc, ?_⟩, V, p, hdec, hVgrid, hVmarker, hp, ?_⟩
  · rw [exec_enc1 hsz hg hv, applyStep_some henc, succeed_eq_done]
  · rw [exec_dec1 hsz hg hv, applyStep_some hdec, succeed_eq_done]

end Sys2Proof.Machine

/-! PROOFS of the family 43_message_commands. First what the input checks find (O59), then the empty nonce (O50), then a message as a
chain of steps and what the four commands complete to on a clean input (O47 to O49). Last, that the cells from `N` on do not take part
in a step, so that the reader's chain is the sender's (O51, O52) and a call does not see the call before (O53). -/

namespace Sys2Proof.Machine

open Sys2Proof.Claims

/-! ### Stretches of the input (R190) -/

theorem stretch_input (s : State) {lo hi : Nat} (hhi : hi ≤ s.len.toNat) :
    stretch lo hi (input s) = (List.range' lo (hi - lo)).map (ibufAt s) := by
  rw [stretch, input, ← List.map_take, ← List.map_drop, List.take_range, Nat.min_eq_left hhi, List.range_eq_range',
    List.drop_range', Nat.zero_add, Nat.mul_one]

theorem mem_stretch_input {s : State} {lo hi : Nat} (hhi : hi ≤ s.len.toNat) {v : Sym} :
    v ∈ stretch lo hi (input s) ↔ ∃ k, lo ≤ k ∧ k < hi ∧ ibufAt s k = v := by
  rw [stretch_input s hhi, List.mem_map]
  refine exists_congr fun k => ?_
  rw [List.mem_range'_1, ← and_assoc]
  exact and_congr_left fun _ => by omega

/-- What is found in a stretch are its codes outside the alphabet, all of them (R190). -/
theorem isBadset_stretch {sz : GridSize} {s : State} {lo hi : Nat} (hhi : hi ≤ s.len.toNat) :
    isBadset sz s lo hi (badset sz (stretch lo hi (input s))) := by
  intro v hv
  rw [badset, getLsbD_symSetOf _ v hv]
  simp only [Bool.and_eq_true, decide_eq_true_eq, List.any_eq_true, beq_iff_eq, mem_stretch_input hhi]
  refine and_congr_right fun _ => ⟨?_, ?_⟩
  · rintro ⟨_, ⟨k, hlo, hk, rfl⟩, hkv⟩
    exact ⟨k, hlo, hk, hkv⟩
  · rintro ⟨k, hlo, hk, hkv⟩
    exact ⟨_, ⟨k, hlo, hk, rfl⟩, hkv⟩

theorem badset_stretch_eq_zero {sz : GridSize} {s : State} {lo hi : Nat} (hhi : hi ≤ s.len.toNat) :
    badset sz (stretch lo hi (input s)) = 0 ↔ clean sz s lo hi := by
  rw [badset_eq_zero]
  constructor
  · exact fun h k hlo hk => h _ ((mem_stretch_input hhi).2 ⟨k, hlo, hk, rfl⟩)
  · intro h x hx
    obtain ⟨k, hlo, hk, rfl⟩ := (mem_stretch_input hhi).1 hx
    exact h k hlo hk

theorem clean_split {sz : GridSize} {s : State} {n len : Nat} (hle : n ≤ len) :
    clean sz s 0 len ↔ clean sz s 0 n ∧ clean sz s n len := by
  constructor
  · exact fun h => ⟨fun k hlo hk => h k hlo (by omega), fun k _ hk => h k (Nat.zero_le k) hk⟩
  · rintro ⟨hn, hrest⟩ k hlo hk
    rcases Nat.lt_or_ge k n with hkn | hkn
    · exact hn k hlo hkn
    · exact hrest k hkn hk

/-- The check of DECN passes exactly a wire message over the alphabet, in both modes (R201). -/
theorem wireCheck_eq_none_iff {sz : GridSize} {s : State} (nmode : NonceMode) (hle : s.nlen.toNat ≤ s.len.toNat) :
    wireCheck sz nmode s.nlen.toNat s.len.toNat (input s) = none ↔ clean sz s 0 s.len.toNat := by
  cases nmode with
  | modeA =>
    rw [clean_split hle, ← badset_stretch_eq_zero hle, ← badset_stretch_eq_zero le_rfl, wireCheck]
    split
    next hn => exact iff_of_false nofun fun h => hn h.1
    next hn => simp [not_not.1 hn]
  | modeB =>
    rw [← badset_stretch_eq_zero le_rfl, wireCheck]
    simp

/-! ### The message commands on a configured block with a key (R192, R193, R200, R201) -/

section
variable {s : State} {sz : GridSize} (hsz : s.config.size = some sz)
include hsz

theorem exec_encn_badLength (h : s.len.toNat < s.nlen.toNat) : exec .encn s = .next (fail .badLength noFindings s) := by
  rw [exec, execEncn, configured_some hsz, if_pos h]

theorem exec_decn_badLength (h : s.len.toNat < s.nlen.toNat) : exec .decn s = .next (fail .badLength noFindings s) := by
  rw [exec, execDecn, configured_some hsz, if_pos h]

variable (hk : s.status.keyvalid = true)
include hk

theorem exec_enc_unclean (h : ¬ clean sz s 0 s.len.toNat) :
    exec .enc s = .next (failMessageInput .invalidPlaintext (badset sz (input s)) s) := by
  rw [exec, execEnc, configured_some hsz, if_neg (by simp [hk]), if_neg (mt badset_input_eq_zero.1 h)]

theorem exec_dec_unclean (h : ¬ clean sz s 0 s.len.toNat) :
    exec .dec s = .next (failMessageInput .invalidCiphertext (badset sz (input s)) s) := by
  rw [exec, execDec, configured_some hsz, if_neg (by simp [hk]), if_neg (mt badset_input_eq_zero.1 h)]

theorem exec_enc_clean (h : clean sz s 0 s.len.toNat) :
    exec .enc s = .next (runMessage sz (fun W => foldSteps (encstep sz s.config.mmode) W (input s)) s.len s) := by
  rw [exec, execEnc, configured_some hsz, if_neg (by simp [hk]), if_pos (badset_input_eq_zero.2 h)]

theorem exec_dec_clean (h : clean sz s 0 s.len.toNat) :
    exec .dec s = .next (runMessage sz (fun W => foldSteps (decstep sz s.config.mmode) W (input s)) s.len s) := by
  rw [exec, execDec, configured_some hsz, if_neg (by simp [hk]), if_pos (badset_input_eq_zero.2 h)]

variable (hle : s.nlen.toNat ≤ s.len.toNat)
include hle

theorem exec_encn_invalidNonce (h : ¬ clean sz s 0 s.nlen.toNat) :
    exec .encn s = .next (failMessageInput .invalidNonce (badset sz (stretch 0 s.nlen.toNat (input s))) s) := by
  rw [exec, execEncn, configured_some hsz, if_neg (Nat.not_lt.2 hle), if_neg (by simp [hk]),
    if_pos (mt (badset_stretch_eq_zero hle).1 h)]

theorem exec_encn_invalidPlaintext (hn : clean sz s 0 s.nlen.toNat) (h : ¬ clean sz s s.nlen.toNat s.len.toNat) :
    exec .encn s
      = .next (failMessageInput .invalidPlaintext (badset sz (stretch s.nlen.toNat s.len.toNat (input s))) s) := by
  rw [exec, execEncn, configured_some hsz, if_neg (Nat.not_lt.2 hle), if_neg (by simp [hk]),
    if_neg (not_not.2 ((badset_stretch_eq_zero hle).2 hn)), if_pos (mt (badset_stretch_eq_zero le_rfl).1 h)]

theorem exec_encn_clean (h : clean sz s 0 s.len.toNat) : exec .encn s = .next (runMessage sz
    (fun W => encryptWithNonce sz s.config.mmode s.config.nmode s.nlen.toNat W (input s)) s.len s) := by
  obtain ⟨hn, hp⟩ := (clean_split hle).1 h
  rw [exec, execEncn, configured_some hsz, if_neg (Nat.not_lt.2 hle), if_neg (by simp [hk]),
    if_neg (not_not.2 ((badset_stretch_eq_zero hle).2 hn)), if_neg (not_not.2 ((badset_stretch_eq_zero le_rfl).2 hp))]

theorem exec_decn_blamed {e : CmdError} {bad : SymSet}
    (h : wireCheck sz s.config.nmode s.nlen.toNat s.len.toNat (input s) = some (e, bad)) :
    exec .decn s = .next (failMessageInput e bad s) := by
  rw [exec, execDecn, configured_some hsz, if_neg (Nat.not_lt.2 hle), if_neg (by simp [hk]), h]

theorem exec_decn_clean (h : clean sz s 0 s.len.toNat) : exec .decn s = .next (runMessage sz
    (fun W => decryptWithNonce sz s.config.mmode s.config.nmode s.nlen.toNat W (input s)) (s.len - s.nlen) s) := by
  rw [exec, execDecn, configured_some hsz, if_neg (Nat.not_lt.2 hle), if_neg (by simp [hk]),
    (wireCheck_eq_none_iff s.config.nmode hle).2 h]

end

theorem failMessageInput_eq_failed (e : CmdError) (bad : SymSet) (s : State) :
    failMessageInput e bad s = failed (errorCode e) ⟨bad, 0, 0⟩ { s with olen := 0, idx := 0 } := fail_eq_failed e _ _

/-- Settles O59: the stretches are checked in order, and each check reports what it found itself. -/
theorem nonceStretchIsBlamedFirst : Obligations.NonceStretchIsBlamedFirst := by
  intro s sz hsz hle hk
  refine ⟨fun hn => ⟨_, isBadset_stretch hle, ?_, fun hA => ?_⟩,
    fun hn hp => ⟨_, isBadset_stretch le_rfl, ?_, fun hA => ?_⟩, fun hB hc => ⟨_, isBadset_stretch le_rfl, ?_⟩⟩
  · rw [exec_encn_invalidNonce hsz hk hle hn, failMessageInput_eq_failed]
    rfl
  · have hbad := mt (badset_stretch_eq_zero hle).1 hn
    rw [exec_decn_blamed hsz hk hle (by rw [hA, wireCheck, if_pos hbad]), failMessageInput_eq_failed]
    rfl
  · rw [exec_encn_invalidPlaintext hsz hk hle hn hp, failMessageInput_eq_failed]
    rfl
  · have hnonce := not_not.2 ((badset_stretch_eq_zero hle).2 hn)
    have hbad := mt (badset_stretch_eq_zero le_rfl).1 hp
    rw [exec_decn_blamed hsz hk hle (by rw [hA, wireCheck, if_neg hnonce, if_pos hbad]), failMessageInput_eq_failed]
    rfl
  · have hbad := mt (badset_stretch_eq_zero le_rfl).1 hc
    rw [exec_decn_blamed hsz hk hle (by rw [hB, wireCheck, if_pos hbad]), failMessageInput_eq_failed]
    rfl

/-! ### The empty nonce (R195) -/

theorem encryptWithNonce_zero (sz : GridSize) (mode : MarkerMode) (nmode : NonceMode) (W : Work) (inp : List Sym) :
    encryptWithNonce sz mode nmode 0 W inp = foldSteps (encstep sz mode) W inp := by
  cases nmode with
  | modeA =>
    simp only [encryptWithNonce, List.take_zero, List.drop_zero, foldSteps_nil, List.nil_append]
    cases foldSteps (encstep sz mode) W inp <;> rfl
  | modeB => rfl

theorem decryptWithNonce_zero (sz : GridSize) (mode : MarkerMode) (nmode : NonceMode) (W : Work) (inp : List Sym) :
    decryptWithNonce sz mode nmode 0 W inp = foldSteps (decstep sz mode) W inp := by
  cases nmode with
  | modeA => rfl
  | modeB =>
    simp only [decryptWithNonce, List.drop_zero]
    cases foldSteps (decstep sz mode) W inp <;> rfl

theorem badset_nil (sz : GridSize) : badset sz [] = 0 := (badset_eq_zero sz []).2 nofun

theorem stretch_zero (hi : Nat) (inp : List Sym) : stretch 0 hi inp = inp.take hi := rfl

theorem stretch_input_whole (s : State) : stretch 0 s.len.toNat (input s) = input s :=
  List.take_of_length_le (input_length s).le

/-- The check of DECN with an empty nonce is the check of DEC. -/
theorem wireCheck_zero (sz : GridSize) (nmode : NonceMode) (len : Nat) (inp : List Sym) :
    wireCheck sz nmode 0 len inp = if badset sz (stretch 0 len inp) = 0 then none
      else some (.invalidCiphertext, badset sz (stretch 0 len inp)) := by
  cases nmode with
  | modeA => simp [wireCheck, stretch_zero 0, badset_nil]
  | modeB => simp [wireCheck]

/-- Settles O50: with no nonce the checks and the runs are those of ENC and DEC. -/
theorem emptyNonceIsPlainEncryption : Obligations.EmptyNonceIsPlainEncryption := by
  intro s hn
  have hnat : s.nlen.toNat = 0 := congrArg BitVec.toNat hn
  have holen : s.len - s.nlen = s.len := by simp [hn]
  refine ⟨congrArg (configured s) (funext fun sz => ?_), congrArg (configured s) (funext fun sz => ?_)⟩
  · simp only [hnat, encryptWithNonce_zero, stretch_input_whole, stretch_zero 0, List.take_zero, badset_nil]
    by_cases hbad : badset sz (input s) = 0 <;> simp [hbad]
  · simp only [hnat, holen, decryptWithNonce_zero, wireCheck_zero, stretch_input_whole, Nat.not_lt_zero, if_false]
    by_cases hbad : badset sz (input s) = 0
    · simp only [if_pos hbad]
    · simp only [if_neg hbad]

/-! ### A message as a chain of steps (R191) -/

/-- A step of either direction: the state after it and its result, none when it is fatal (42_cipher_step R172, R173). -/
abbrev StepFun := Work → Sym → Option (Work × Sym)

/-- From `W0`, one step per symbol: at place `k` the step `f k` of the symbol `x k` leads from `V k` to `V (k + 1)` and gives `y k`.
The working states are valid and the results lie in the alphabet. -/
structure Chain (sz : GridSize) (f : Nat → StepFun) (n : Nat) (W0 : Work) (x : Nat → Sym)
    (V : Nat → Work) (y : Nat → Sym) : Prop where
  start : V 0 = W0
  step : ∀ k, k < n → f k (V k) (x k) = some (V (k + 1), y k)
  valid : ∀ k, k < n → workValid sz (V k)
  symbol : ∀ k, k < n → (y k).toNat < sz.count

/-- Steps that answer on valid working states run through every message over the alphabet. -/
theorem exists_chain {sz : GridSize} {f : Nat → StepFun} (hf : ∀ k, stepAnswers sz (f k)) {n : Nat}
    {x : Nat → Sym} (hx : ∀ k, k < n → (x k).toNat < sz.count) {W0 : Work} (hW0 : workValid sz W0) :
    ∃ V y, Chain sz f n W0 x V y := by
  induction n generalizing f x W0 with
  | zero => exact ⟨fun _ => W0, x, rfl, nofun, nofun, nofun⟩
  | succ n ih =>
    obtain ⟨W1, y0, hstep, hW1, hy0⟩ := hf 0 hW0 (hx 0 n.succ_pos)
    obtain ⟨V, y, hV⟩ := ih (fun k => hf (k + 1)) (fun k hk => hx (k + 1) (Nat.succ_lt_succ hk)) hW1
    refine ⟨fun | 0 => W0 | k + 1 => V k, fun | 0 => y0 | k + 1 => y k, rfl, fun k hk => ?_, fun k hk => ?_, fun k hk => ?_⟩
    · cases k with
      | zero =>
        show f 0 W0 (x 0) = some (V 0, y0)
        rw [hV.start, hstep]
      | succ k => exact hV.step k (Nat.lt_of_succ_lt_succ hk)
    · cases k with
      | zero => exact hW0
      | succ k => exact hV.valid k (Nat.lt_of_succ_lt_succ hk)
    · cases k with
      | zero => exact hy0
      | succ k => exact hV.symbol k (Nat.lt_of_succ_lt_succ hk)

/-- A chain of one and the same step is the fold over its symbols. -/
theorem foldSteps_range {f : StepFun} {n : Nat} {V : Nat → Work} {x y : Nat → Sym}
    (h : ∀ k, k < n → f (V k) (x k) = some (V (k + 1), y k)) :
    foldSteps f (V 0) ((List.range n).map x) = some (V n, (List.range n).map y) := by
  induction n generalizing V x y with
  | zero => rfl
  | succ n ih =>
    have hrest := ih (V := fun k => V (k + 1)) (x := fun k => x (k + 1)) (y := fun k => y (k + 1))
      fun k hk => h (k + 1) (Nat.succ_lt_succ hk)
    simp only [List.range_succ_eq_map, List.map_cons, List.map_map]
    exact foldSteps_cons.2 ⟨V 1, y 0, _, h 0 n.succ_pos, hrest, rfl⟩

theorem map_range_add {α : Type} (f : Nat → α) (n m : Nat) :
    (List.range (n + m)).map f = (List.range n).map f ++ (List.range m).map fun k => f (n + k) := by
  rw [List.range_add, List.map_append, List.map_map]
  rfl

theorem take_map_range_add (x : Nat → Sym) (n m : Nat) : ((List.range (n + m)).map x).take n = (List.range n).map x := by
  rw [map_range_add, List.take_left' (by simp)]

theorem drop_map_range_add (x : Nat → Sym) (n m : Nat) :
    ((List.range (n + m)).map x).drop n = (List.range m).map fun k => x (n + k) := by
  rw [map_range_add, List.drop_left' (by simp)]

/-- The symbol of the wire at place `k`: in Mode A that of the clear nonce below `n`, else the result (R196, R197). -/
def wireSymbol (nmode : NonceMode) (n : Nat) (clear result : Nat → Sym) (k : Nat) : Sym :=
  if nmode = .modeA ∧ k < n then clear k else result k

theorem wireSymbol_modeB (n : Nat) (clear result : Nat → Sym) : wireSymbol .modeB n clear result = result :=
  funext fun _ => if_neg (by simp)

/-- The step of DECN at place `k`: in Mode A an encryption of the clear nonce below `n`, else a decryption (R198, R199). -/
def wireStep (sz : GridSize) (mode : MarkerMode) (nmode : NonceMode) (n k : Nat) : StepFun :=
  if nmode = .modeA ∧ k < n then encstep sz mode else decstep sz mode

theorem wireStep_answers (sz : GridSize) (mode : MarkerMode) (nmode : NonceMode) (n k : Nat) :
    stepAnswers sz (wireStep sz mode nmode n k) := by
  unfold wireStep
  split
  · exact encstep_answers sz mode
  · exact decstep_answers sz mode

section
variable {sz : GridSize} {mode : MarkerMode} {n len : Nat} {V : Nat → Work} {x y : Nat → Sym} (nmode : NonceMode) (hle : n ≤ len)
include hle

/-- A chain of encryption steps is the encryption with a nonce, which puts the clear nonce on the wire in Mode A. -/
theorem encryptWithNonce_range (h : ∀ k, k < len → encstep sz mode (V k) (x k) = some (V (k + 1), y k)) :
    encryptWithNonce sz mode nmode n (V 0) ((List.range len).map x)
      = some (V len, (List.range len).map (wireSymbol nmode n x y)) := by
  cases nmode with
  | modeB =>
    rw [wireSymbol_modeB]
    exact foldSteps_range h
  | modeA =>
    obtain ⟨m, rfl⟩ := Nat.exists_eq_add_of_le hle
    have hnonce := foldSteps_range (n := n) fun k hk => h k (by omega)
    have hbody := foldSteps_range (n := m) (V := fun k => V (n + k)) fun k hk => h (n + k) (by omega)
    have hwire : (List.range (n + m)).map (wireSymbol .modeA n x y)
        = (List.range n).map x ++ (List.range m).map fun k => y (n + k) := by
      rw [map_range_add]
      congr 1
      · exact List.map_congr_left fun k hk => if_pos ⟨rfl, List.mem_range.1 hk⟩
      · exact List.map_congr_left fun k _ => if_neg (by simp)
    simp only [Nat.add_zero] at hbody
    simp only [encryptWithNonce, take_map_range_add, drop_map_range_add, hnonce, hbody, hwire]

/-- A chain of the steps of DECN is the decryption with a nonce, which drops the results below `n`. -/
theorem decryptWithNonce_range (h : ∀ k, k < len → wireStep sz mode nmode n k (V k) (x k) = some (V (k + 1), y k)) :
    decryptWithNonce sz mode nmode n (V 0) ((List.range len).map x)
      = some (V len, (List.range (len - n)).map fun k => y (k + n)) := by
  obtain ⟨m, rfl⟩ := Nat.exists_eq_add_of_le hle
  simp only [Nat.add_sub_cancel_left, Nat.add_comm _ n]
  cases nmode with
  | modeB =>
    have hall := foldSteps_range (f := decstep sz mode) (n := n + m) h
    simp only [decryptWithNonce, hall, drop_map_range_add]
  | modeA =>
    have hnonce := foldSteps_range (f := encstep sz mode) (n := n) fun k hk => by
      simpa [wireStep, hk] using h k (by omega)
    have hbody := foldSteps_range (f := decstep sz mode) (n := m) (V := fun k => V (n + k)) fun k hk => by
      simpa [wireStep, Nat.add_assoc] using h (n + k) (by omega)
    simp only [Nat.add_zero] at hbody
    simp only [decryptWithNonce, take_map_range_add, drop_map_range_add, hnonce, hbody]

end

/-! ### What a completed message command leaves (R191) -/

/-- `s` after a message that ends in the working state `W` with the outputs `out`. -/
def afterMessage (s : State) (W : Work) (out : List Sym) (olen : Count) : State :=
  succeed { s with
    grid := W.grid, marker := W.marker, obuf := bufPutFrom s.obuf 0 out, olen := olen, idx := s.len
    status := { s.status with gridvalid := true } }

theorem runMessage_some {sz : GridSize} {run : Work → Option (Work × List Sym)} {s : State} {W : Work} {out : List Sym}
    (olen : Count) (h : run (freshWork sz s) = some (W, out)) : runMessage sz run olen s = afterMessage s W out olen := by
  rcases runMessage_cases sz run olen s with ⟨hnone, -⟩ | ⟨W', out', hsome, e⟩
  · rw [h] at hnone
    cases hnone
  · obtain ⟨rfl, rfl⟩ : W = W' ∧ out = out' := by simpa [h] using hsome
    exact e

theorem messageDone_afterMessage (s : State) (W : Work) (out : List Sym) (olen : Count) :
    messageDone s (afterMessage s W out olen) W olen := rfl

theorem obufAt_afterMessage {s : State} (hwf : s.obuf.wf) (W : Work) (out : List Sym) (olen : Count) (k : Nat) :
    obufAt (afterMessage s W out olen) k = out[k]?.getD (obufAt s k) := by
  have hfind := bufFind_bufPutFrom s.obuf 0 out k hwf
  simp only [Nat.zero_le, true_and, Nat.zero_add, Nat.sub_zero] at hfind
  simp only [obufAt, afterMessage, succeed_obuf, succeed_hardResets, hfind]
  split
  next hk => simp [hk]
  next hk => simp [List.getElem?_eq_none (Nat.not_lt.1 hk)]

theorem outputs_afterMessage {s : State} (hwf : s.obuf.wf) (W : Work) (n : Nat) (f : Nat → Sym) (olen : Count) :
    outputs s (afterMessage s W ((List.range n).map f) olen) n f := by
  refine ⟨fun k hk => ?_, fun k hk => ?_⟩
  · simp [obufAt_afterMessage hwf, hk]
  · simp [obufAt_afterMessage hwf, hk]

theorem freshWork_valid {sz : GridSize} {s : State} (hkey : gridValid sz s.key) : workValid sz (freshWork sz s) :=
  ⟨gridValid_copy s.grid hkey, zero_valid sz⟩

theorem Chain.freshFrom {sz : GridSize} {f : Nat → StepFun} {n : Nat} {s : State} {x y : Nat → Sym}
    {V : Nat → Work} (h : Chain sz f n (freshWork sz s) x V y) : freshFrom sz s (V 0) :=
  h.start ▸ ⟨copiedFrom_storeCells sz s.key s.grid, rfl⟩

/-- After the length check the output length of DECN is a difference that does not wrap (log entry 10). -/
theorem toNat_len_sub_nlen {s : State} (hle : s.nlen.toNat ≤ s.len.toNat) :
    (s.len - s.nlen).toNat = s.len.toNat - s.nlen.toNat := BitVec.toNat_sub_of_le (BitVec.le_def.2 hle)

section
variable {s : State} {sz : GridSize} {V : Nat → Work} {y : Nat → Sym} (hsz : s.config.size = some sz)
  (hk : s.status.keyvalid = true) (hclean : clean sz s 0 s.len.toNat)
include hsz hk hclean

theorem exec_enc_chain
    (h : Chain sz (fun _ => encstep sz s.config.mmode) s.len.toNat (freshWork sz s) (ibufAt s) V y) :
    exec .enc s = .next (afterMessage s (V s.len.toNat) ((List.range s.len.toNat).map y) s.len) := by
  rw [exec_enc_clean hsz hk hclean, runMessage_some _ (h.start ▸ foldSteps_range h.step)]

theorem exec_dec_chain
    (h : Chain sz (fun _ => decstep sz s.config.mmode) s.len.toNat (freshWork sz s) (ibufAt s) V y) :
    exec .dec s = .next (afterMessage s (V s.len.toNat) ((List.range s.len.toNat).map y) s.len) := by
  rw [exec_dec_clean hsz hk hclean, runMessage_some _ (h.start ▸ foldSteps_range h.step)]

variable (hle : s.nlen.toNat ≤ s.len.toNat)
include hle

theorem exec_encn_chain
    (h : Chain sz (fun _ => encstep sz s.config.mmode) s.len.toNat (freshWork sz s) (ibufAt s) V y) :
    exec .encn s = .next (afterMessage s (V s.len.toNat)
      ((List.range s.len.toNat).map (wireSymbol s.config.nmode s.nlen.toNat (ibufAt s) y)) s.len) := by
  rw [exec_encn_clean hsz hk hle hclean, runMessage_some _ (h.start ▸ encryptWithNonce_range _ hle h.step)]

theorem exec_decn_chain (h : Chain sz (wireStep sz s.config.mmode s.config.nmode s.nlen.toNat) s.len.toNat (freshWork sz s)
    (ibufAt s) V y) :
    exec .decn s = .next (afterMessage s (V s.len.toNat)
      ((List.range (s.len.toNat - s.nlen.toNat)).map fun k => y (k + s.nlen.toNat)) (s.len - s.nlen)) := by
  rw [exec_decn_clean hsz hk hle hclean, runMessage_some _ (h.start ▸ decryptWithNonce_range _ hle h.step)]

end

theorem exists_chain_input {sz : GridSize} {s : State} {f : Nat → StepFun}
    (hf : ∀ k, stepAnswers sz (f k)) (hkey : gridValid sz s.key) (hclean : clean sz s 0 s.len.toNat) :
    ∃ V y, Chain sz f s.len.toNat (freshWork sz s) (ibufAt s) V y :=
  exists_chain hf (fun k hk => hclean k (Nat.zero_le k) hk) (freshWork_valid hkey)

/-- Settles O47: the chain of the steps over the input, and the command stores its results. -/
theorem encAndDecProcessTheMessage : Obligations.EncAndDecProcessTheMessage := by
  intro s sz hsz hk hkey hwf hclean
  obtain ⟨V, c, hV⟩ := exists_chain_input (fun _ => encstep_answers sz s.config.mmode) hkey hclean
  obtain ⟨U, p, hU⟩ := exists_chain_input (fun _ => decstep_answers sz s.config.mmode) hkey hclean
  exact ⟨⟨V, c, _, exec_enc_chain hsz hk hclean hV, hV.freshFrom, hV.step, outputs_afterMessage hwf _ _ c _,
      messageDone_afterMessage s _ _ _⟩,
    U, p, _, exec_dec_chain hsz hk hclean hU, hU.freshFrom, hU.step, outputs_afterMessage hwf _ _ p _,
      messageDone_afterMessage s _ _ _⟩

/-- Settles O48: as O47, and Mode A puts the clear nonce before the results. -/
theorem encnEncryptsWithNonce : Obligations.EncnEncryptsWithNonce := by
  intro s sz hsz hle hk hkey hwf hclean
  obtain ⟨V, c, hV⟩ := exists_chain_input (fun _ => encstep_answers sz s.config.mmode) hkey hclean
  exact ⟨V, c, _, exec_encn_chain hsz hk hclean hle hV, hV.freshFrom, hV.step,
    outputs_afterMessage hwf _ _ (wireSymbol s.config.nmode s.nlen.toNat (ibufAt s) c) _, messageDone_afterMessage s _ _ _⟩

/-- Settles O49: the chain of the steps of DECN over the wire message. -/
theorem decnDecryptsWithNonce : Obligations.DecnDecryptsWithNonce := by
  intro s sz hsz hle hk hkey hwf hclean
  obtain ⟨V, p, hV⟩ := exists_chain_input (wireStep_answers sz s.config.mmode s.config.nmode s.nlen.toNat) hkey hclean
  refine ⟨V, p, _, exec_decn_chain hsz hk hclean hle hV, hV.freshFrom, fun k hklen => ?_, outputs_afterMessage hwf _ _ _ _,
    _, toNat_len_sub_nlen hle, messageDone_afterMessage s _ _ _⟩
  simpa only [wireStep, ite_apply] using hV.step k hklen

/-! ### The cells from `N` on do not take part in a step (10_state R39) -/

/-- `W` with the cells from `N` on as in `H`. -/
def withHigh (sz : GridSize) (H : Grid) (W : Work) : Work := ⟨storeCells sz.count (cell W.grid) H, W.marker⟩

theorem cell_withHigh {sz : GridSize} (H : Grid) (W : Work) {k : Nat} (hk : k < sz.count) :
    cell (withHigh sz H W).grid k = cell W.grid k := cell_storeCells_lt _ _ hk

theorem storeCells_congr {n : Nat} {f g : Nat → Sym} (H : Grid) (h : ∀ k, k < n → f k = g k) : storeCells n f H = storeCells n g H :=
  grid_ext fun k hk => by
    rw [cell_storeCells _ _ _ hk, cell_storeCells _ _ _ hk]
    split
    next hkn => exact h k hkn
    next => rfl

/-- A call's fresh working state is, but for the cells from `N` on, that of any block with the same key. -/
theorem withHigh_freshWork {sz : GridSize} {s t : State} (hkey : ∀ k, k < sz.count → cell t.key k = cell s.key k) :
    withHigh sz t.grid (freshWork sz s) = freshWork sz t := by
  have hgrid : storeCells sz.count (cell (freshWork sz s).grid) t.grid = storeCells sz.count (cell t.key) t.grid :=
    storeCells_congr t.grid fun k hk => (cell_storeCells_lt (cell s.key) s.grid hk).trans (hkey k hk).symm
  exact congrArg (Work.mk · ⟨0, 0⟩) hgrid

section
variable {sz : GridSize} (G H : Grid)

theorem posof_storeCells (v : Sym) : posof sz (storeCells sz.count (cell G) H) v = posof sz G v := by
  refine congrArg (Option.map (posOfFlat sz)) (List.find?_congr fun k hk => ?_)
  rw [cell_storeCells_lt _ _ (List.mem_range.1 hk)]

theorem symat_storeCells {p : Pos} (hp : posValid sz p) : symat sz (storeCells sz.count (cell G) H) p = symat sz G p :=
  cell_storeCells_lt _ _ (flat_lt hp)

theorem cell_storeCells_coords {r c : Nat} (hr : r < sz.side) (hc : c < sz.side) :
    cell (storeCells sz.count (cell G) H) (r * sz.side + c) = cell G (r * sz.side + c) :=
  cell_storeCells_lt _ _ (flat_lt_count sz hr hc)

theorem cell_storeCells_high {k : Nat} (h : sz.count ≤ k) (hk : k < 64) :
    cell (storeCells sz.count (cell G) H) k = cell H k := by
  rw [cell_storeCells _ _ _ hk, if_neg (Nat.not_lt.2 h)]

theorem rotr_storeCells (r : Nat) (n : Int) :
    rotr sz (storeCells sz.count (cell G) H) r n = storeCells sz.count (cell (rotr sz G r n)) H := by
  refine grid_ext_coords sz (fun r' c hr hc => ?_) fun k h hk => ?_
  · rw [cell_storeCells_coords _ _ hr hc, cell_rotr sz _ r n hr hc, cell_rotr sz _ r n hr hc,
      cell_storeCells_coords _ _ hr (modSize_lt sz _), cell_storeCells_coords _ _ hr hc]
  · rw [cell_rotr_high sz _ r n h hk, cell_storeCells_high _ _ h hk, cell_storeCells_high _ _ h hk]

theorem rotc_storeCells (c : Nat) (n : Int) :
    rotc sz (storeCells sz.count (cell G) H) c n = storeCells sz.count (cell (rotc sz G c n)) H := by
  refine grid_ext_coords sz (fun r c' hr hc => ?_) fun k h hk => ?_
  · rw [cell_storeCells_coords _ _ hr hc, cell_rotc sz _ c n hr hc, cell_rotc sz _ c n hr hc,
      cell_storeCells_coords _ _ (modSize_lt sz _) hc, cell_storeCells_coords _ _ hr hc]
  · rw [cell_rotc_high sz _ c n h hk, cell_storeCells_high _ _ h hk, cell_storeCells_high _ _ h hk]

end

/-- A step answers the same whatever the cells from `N` on hold, and leaves them. -/
abbrev stepIgnoresHigh (sz : GridSize) (f : StepFun) : Prop :=
  ∀ {W W' : Work} {x y : Sym} (H : Grid), workValid sz W → f W x = some (W', y) →
    f (withHigh sz H W) x = some (withHigh sz H W', y)

theorem mix_withHigh {sz : GridSize} {W : Work} (H : Grid) (hW : workValid sz W) : mix sz (withHigh sz H W) = mix sz W :=
  congrArg (ix sz) (symat_storeCells W.grid H hW.2)

theorem tail_withHigh {sz : GridSize} {mode : MarkerMode} {W W' : Work} {pp : Pos} {c : Sym} (H : Grid)
    (h : tail sz mode W pp c = some W') : tail sz mode (withHigh sz H W) pp c = some (withHigh sz H W') := by
  obtain ⟨cp', hcp, rfl⟩ := tail_cases h
  simp only [tail, withHigh, rotr_storeCells, posof_storeCells, hcp, rotc_storeCells]

theorem encstep_ignoresHigh (sz : GridSize) (mode : MarkerMode) : stepIgnoresHigh sz (encstep sz mode) := by
  intro W W' p c H hW h
  obtain ⟨pp, hpp, rfl, ht⟩ := encstep_cases h
  refine encstep_of_tail ((posof_storeCells W.grid H p).trans hpp) ?_ (tail_withHigh H ht)
  rw [mix_withHigh H hW]
  exact symat_storeCells W.grid H (padd_valid sz _ _)

theorem decstep_ignoresHigh (sz : GridSize) (mode : MarkerMode) : stepIgnoresHigh sz (decstep sz mode) := by
  intro W W' c p H hW h
  obtain ⟨cp, hcp, rfl, ht⟩ := decstep_cases h
  rw [← symat_storeCells W.grid H (psub_valid sz cp (mix sz W))]
  exact decstep_of_tail ((posof_storeCells W.grid H c).trans hcp) (by rw [mix_withHigh H hW]) (tail_withHigh H ht)

theorem wireStep_ignoresHigh (sz : GridSize) (mode : MarkerMode) (nmode : NonceMode) (n k : Nat) :
    stepIgnoresHigh sz (wireStep sz mode nmode n k) := by
  unfold wireStep
  split
  · exact encstep_ignoresHigh sz mode
  · exact decstep_ignoresHigh sz mode

/-- The same chain on a block with the same key: the same results from the same symbols, over other cells from `N` on. -/
theorem Chain.transfer {sz : GridSize} {f : Nat → StepFun} {n : Nat} {s t : State} {x x' y : Nat → Sym}
    {V : Nat → Work} (h : Chain sz f n (freshWork sz s) x V y) (hf : ∀ k, stepIgnoresHigh sz (f k))
    (hkey : ∀ k, k < sz.count → cell t.key k = cell s.key k) (hx : ∀ k, k < n → x' k = x k) :
    Chain sz f n (freshWork sz t) x' (fun k => withHigh sz t.grid (V k)) y where
  start := (congrArg (withHigh sz t.grid) h.start).trans (withHigh_freshWork hkey)
  step := fun k hk => (hx k hk).symm ▸ hf k t.grid (h.valid k hk) (h.step k hk)
  valid := fun k hk => ⟨gridValid_copy t.grid (h.valid k hk).1, (h.valid k hk).2⟩
  symbol := h.symbol

/-! ### The reader's chain is the sender's (R203) -/

/-- On the sender's working states the steps of DECN over the wire give the plaintext back after the nonce: an encryption of the same
clear symbol, or by the symmetry of the steps (42_cipher_step R174) the decryption of the result. -/
theorem Chain.reply {sz : GridSize} {mode : MarkerMode} {len : Nat} {W0 : Work} {x c : Nat → Sym} {V : Nat → Work}
    (h : Chain sz (fun _ => encstep sz mode) len W0 x V c) (hx : ∀ k, k < len → (x k).toNat < sz.count) (nmode : NonceMode)
    (n : Nat) : Chain sz (wireStep sz mode nmode n) len W0 (wireSymbol nmode n x c) V (wireSymbol nmode n c x) where
  start := h.start
  step := fun k hk => by
    obtain ⟨hgrid, hmarker⟩ := h.valid k hk
    unfold wireStep wireSymbol
    split
    · exact h.step k hk
    · exact (stepSymmetry sz mode _ _ _ _ hgrid hmarker).1 (hx k hk) (h.step k hk)
  valid := h.valid
  symbol := fun k hk => by
    unfold wireSymbol
    split
    · exact h.symbol k hk
    · exact hx k hk

theorem wireSymbol_zero (nmode : NonceMode) (clear result : Nat → Sym) : wireSymbol nmode 0 clear result = result :=
  funext fun _ => if_neg (by simp)

theorem wireStep_zero (sz : GridSize) (mode : MarkerMode) (nmode : NonceMode) :
    wireStep sz mode nmode 0 = fun _ => decstep sz mode :=
  funext fun _ => if_neg (by simp)

theorem clean_of_agree {sz : GridSize} {s : State} {n : Nat} {x : Nat → Sym} (hagree : ∀ k, k < n → ibufAt s k = x k)
    (hx : ∀ k, k < n → (x k).toNat < sz.count) : clean sz s 0 n :=
  fun k _ hk => (hagree k hk).symm ▸ hx k hk

theorem wireSymbol_lt {sz : GridSize} {nmode : NonceMode} {n len : Nat} {x c : Nat → Sym}
    (hx : ∀ k, k < len → (x k).toNat < sz.count) (hc : ∀ k, k < len → (c k).toNat < sz.count) {k : Nat} (hk : k < len) :
    (wireSymbol nmode n x c k).toNat < sz.count := by
  unfold wireSymbol
  split
  · exact hx k hk
  · exact hc k hk

/-- Settles O51: the reader's chain over the ciphertext is the sender's, symbol and result changed over. -/
theorem decryptionReturnsTheMessage : Obligations.DecryptionReturnsTheMessage := by
  intro s s' t sz hsz hk hkey hwf hclean ht hconfig hk' hwf' hlen hkeys hagree
  obtain ⟨V, c, hV⟩ := exists_chain_input (fun _ => encstep_answers sz s.config.mmode) hkey hclean
  obtain rfl : _ = t := Host.Outcome.next.inj ((exec_enc_chain hsz hk hclean hV).symm.trans ht)
  replace hlen : s'.len = s.len := hlen
  have hread : ∀ k, k < s.len.toNat → ibufAt s' k = c k := fun k hk =>
    (hagree k hk).trans ((outputs_afterMessage hwf _ _ c _).1 k hk)
  have hU := hV.reply (fun k hk => hclean k (Nat.zero_le k) hk) s.config.nmode 0
  rw [wireSymbol_zero, wireSymbol_zero, wireStep_zero] at hU
  have hU' := hU.transfer (t := s') (fun _ => decstep_ignoresHigh sz s.config.mmode) hkeys hread
  rw [← hlen, ← hconfig] at hU'
  have hclean' : clean sz s' 0 s'.len.toNat := hlen ▸ clean_of_agree hread hV.symbol
  refine ⟨_, exec_dec_chain (hconfig ▸ hsz) hk' hclean' hU', rfl, hlen, fun k hk => ?_, ?_, fun k hk => ?_⟩
  · exact (outputs_afterMessage hwf' _ _ _ _).1 k (hlen ▸ hk)
  · rw [hlen]; rfl
  · rw [hlen]; exact cell_withHigh _ _ hk

/-- Settles O52: as O51, with the steps of DECN over the wire. -/
theorem decryptionWithNonceReturnsThePlaintext : Obligations.DecryptionWithNonceReturnsThePlaintext := by
  intro s s' t sz hsz hle hk hkey hwf hclean ht hconfig hk' hwf' hlen hnlen hkeys hagree
  obtain ⟨V, c, hV⟩ := exists_chain_input (fun _ => encstep_answers sz s.config.mmode) hkey hclean
  obtain rfl : _ = t := Host.Outcome.next.inj ((exec_encn_chain hsz hk hclean hle hV).symm.trans ht)
  replace hlen : s'.len = s.len := hlen
  have hx : ∀ k, k < s.len.toNat → (ibufAt s k).toNat < sz.count := fun k hk => hclean k (Nat.zero_le k) hk
  have hread : ∀ k, k < s.len.toNat → ibufAt s' k = wireSymbol s.config.nmode s.nlen.toNat (ibufAt s) c k := fun k hk =>
    (hagree k hk).trans ((outputs_afterMessage hwf _ _ _ _).1 k hk)
  have hU := (hV.reply hx s.config.nmode s.nlen.toNat).transfer (t := s')
    (wireStep_ignoresHigh sz s.config.mmode s.config.nmode s.nlen.toNat) hkeys hread
  have hclean' : clean sz s' 0 s'.len.toNat := hlen ▸ clean_of_agree hread fun k hk => wireSymbol_lt hx hV.symbol hk
  have hle' : s'.nlen.toNat ≤ s'.len.toNat := by rwa [hlen, hnlen]
  rw [← hlen, ← hnlen, ← hconfig] at hU
  refine ⟨_, exec_decn_chain (hconfig ▸ hsz) hk' hclean' hle' hU, rfl, ?_, fun k hk => ?_, ?_, fun k hk => ?_⟩
  · rw [← hlen, ← hnlen]; exact toNat_len_sub_nlen hle'
  · rw [← hlen, ← hnlen] at hk
    refine ((outputs_afterMessage hwf' _ _ _ _).1 k hk).trans ?_
    rw [hnlen]
    exact if_neg (by omega)
  · rw [hlen]; rfl
  · rw [hlen]; exact cell_withHigh _ _ hk

/-! ### A call does not see the call before (R204) -/

/-- Two blocks with the same configuration, key, lengths and input, whatever the calls before left on them. -/
structure SameCall (sz : GridSize) (s1 s2 : State) : Prop where
  config : s1.config = s2.config
  size : s1.config.size = some sz
  keyvalid1 : s1.status.keyvalid = true
  keyvalid2 : s2.status.keyvalid = true
  key_valid : gridValid sz s1.key
  key : ∀ k, k < sz.count → cell s1.key k = cell s2.key k
  len : s1.len = s2.len
  nlen : s1.nlen = s2.nlen
  ibuf : ∀ k, k < s1.len.toNat → ibufAt s1 k = ibufAt s2 k

/-- Two completions of a command that differ in what the calls before left alone: both fail with the same error and findings, or both
store the same results, over other cells from `N` on. -/
inductive Alike (sz : GridSize) (s1 s2 : State) : StepResult → StepResult → Prop where
  | failed (e : CmdError) (f : Findings) (u1 u2 : State) : Alike sz s1 s2 (.next (fail e f u1)) (.next (fail e f u2))
  | stored (W : Work) (out : List Sym) (olen : Count) (h : out.length = olen.toNat) :
    Alike sz s1 s2 (.next (afterMessage s1 W out olen)) (.next (afterMessage s2 (withHigh sz s2.grid W) out olen))

section
variable {sz : GridSize} {s1 s2 : State} (h : SameCall sz s1 s2)
include h

theorem SameCall.size2 : s2.config.size = some sz := h.config ▸ h.size

theorem SameCall.input : input s1 = input s2 := input_eq_of_agree h.len h.ibuf

theorem SameCall.clean_iff {lo hi : Nat} (hhi : hi ≤ s1.len.toNat) : clean sz s1 lo hi ↔ clean sz s2 lo hi := by
  rw [← badset_stretch_eq_zero hhi, ← badset_stretch_eq_zero (h.len ▸ hhi), h.input]

theorem SameCall.clean_input_iff : clean sz s1 0 s1.len.toNat ↔ clean sz s2 0 s2.len.toNat := h.len ▸ h.clean_iff le_rfl

theorem SameCall.len_lt_nlen_iff : s1.len.toNat < s1.nlen.toNat ↔ s2.len.toNat < s2.nlen.toNat := by rw [h.len, h.nlen]

/-- The chain of a clean input on both blocks. -/
theorem SameCall.exists_chains {f : Nat → StepFun} (hf : ∀ k, stepAnswers sz (f k))
    (hhigh : ∀ k, stepIgnoresHigh sz (f k)) (hclean : clean sz s1 0 s1.len.toNat) :
    ∃ V y, Chain sz f s1.len.toNat (freshWork sz s1) (ibufAt s1) V y ∧
      Chain sz f s2.len.toNat (freshWork sz s2) (ibufAt s2) (fun k => withHigh sz s2.grid (V k)) y := by
  obtain ⟨V, y, hV⟩ := exists_chain_input hf h.key_valid hclean
  exact ⟨V, y, hV, h.len ▸ hV.transfer hhigh (fun k hk => (h.key k hk).symm) fun k hk => (h.ibuf k hk).symm⟩

/-- ENC or DEC on both blocks: a command that runs the chain of the step `f` when its input is clean, and reports it else. -/
theorem SameCall.alike_plain {i : Instr} {e : CmdError} {f : MarkerMode → StepFun} (hf : ∀ mode, stepAnswers sz (f mode))
    (hhigh : ∀ mode, stepIgnoresHigh sz (f mode))
    (hrun : ∀ {s V y}, s.config.size = some sz → s.status.keyvalid = true → clean sz s 0 s.len.toNat →
      Chain sz (fun _ => f s.config.mmode) s.len.toNat (freshWork sz s) (ibufAt s) V y →
      exec i s = .next (afterMessage s (V s.len.toNat) ((List.range s.len.toNat).map y) s.len))
    (hfail : ∀ {s}, s.config.size = some sz → s.status.keyvalid = true → ¬ clean sz s 0 s.len.toNat →
      exec i s = .next (failMessageInput e (badset sz (Machine.input s)) s)) :
    Alike sz s1 s2 (exec i s1) (exec i s2) := by
  by_cases hclean : clean sz s1 0 s1.len.toNat
  · obtain ⟨V, y, h1, h2⟩ := h.exists_chains (fun _ => hf s1.config.mmode) (fun _ => hhigh s1.config.mmode) hclean
    rw [hrun h.size h.keyvalid1 hclean h1, hrun h.size2 h.keyvalid2 (h.clean_input_iff.1 hclean) (h.config ▸ h2), ← h.len]
    exact .stored _ _ _ (by simp)
  · rw [hfail h.size h.keyvalid1 hclean, hfail h.size2 h.keyvalid2 (mt h.clean_input_iff.2 hclean), h.input]
    exact .failed _ _ _ _

theorem SameCall.alike_enc : Alike sz s1 s2 (exec .enc s1) (exec .enc s2) :=
  h.alike_plain (encstep_answers sz) (encstep_ignoresHigh sz) exec_enc_chain exec_enc_unclean

theorem SameCall.alike_dec : Alike sz s1 s2 (exec .dec s1) (exec .dec s2) :=
  h.alike_plain (decstep_answers sz) (decstep_ignoresHigh sz) exec_dec_chain exec_dec_unclean

theorem SameCall.alike_encn : Alike sz s1 s2 (exec .encn s1) (exec .encn s2) := by
  rcases Nat.lt_or_ge s1.len.toNat s1.nlen.toNat with hlt | hle
  · rw [exec_encn_badLength h.size hlt, exec_encn_badLength h.size2 (h.len_lt_nlen_iff.1 hlt)]
    exact .failed _ _ _ _
  have hle2 : s2.nlen.toNat ≤ s2.len.toNat := by rwa [← h.len, ← h.nlen]
  by_cases hn : clean sz s1 0 s1.nlen.toNat
  · have hn2 : clean sz s2 0 s2.nlen.toNat := h.nlen ▸ (h.clean_iff hle).1 hn
    by_cases hp : clean sz s1 s1.nlen.toNat s1.len.toNat
    · have hclean := (clean_split hle).2 ⟨hn, hp⟩
      obtain ⟨V, c, h1, h2⟩ := h.exists_chains (fun _ => encstep_answers sz s1.config.mmode)
        (fun _ => encstep_ignoresHigh sz s1.config.mmode) hclean
      have hwire : (List.range s2.len.toNat).map (wireSymbol s2.config.nmode s2.nlen.toNat (ibufAt s2) c)
          = (List.range s1.len.toNat).map (wireSymbol s1.config.nmode s1.nlen.toNat (ibufAt s1) c) := by
        rw [← h.config, ← h.nlen, ← h.len]
        exact List.map_congr_left fun k hk => by rw [wireSymbol, wireSymbol, h.ibuf k (List.mem_range.1 hk)]
      rw [exec_encn_chain h.size h.keyvalid1 hclean hle h1,
        exec_encn_chain h.size2 h.keyvalid2 (h.clean_input_iff.1 hclean) hle2 (h.config ▸ h2), hwire, ← h.len]
      exact .stored _ _ _ (by simp)
    · have hp2 : ¬ clean sz s2 s2.nlen.toNat s2.len.toNat := fun hc => hp ((h.clean_iff le_rfl).2 (h.len ▸ h.nlen ▸ hc))
      rw [exec_encn_invalidPlaintext h.size h.keyvalid1 hle hn hp, exec_encn_invalidPlaintext h.size2 h.keyvalid2 hle2 hn2 hp2,
        h.input, h.len, h.nlen]
      exact .failed _ _ _ _
  · have hn2 : ¬ clean sz s2 0 s2.nlen.toNat := fun hc => hn ((h.clean_iff hle).2 (h.nlen ▸ hc))
    rw [exec_encn_invalidNonce h.size h.keyvalid1 hle hn, exec_encn_invalidNonce h.size2 h.keyvalid2 hle2 hn2, h.input, h.nlen]
    exact .failed _ _ _ _

theorem SameCall.alike_decn : Alike sz s1 s2 (exec .decn s1) (exec .decn s2) := by
  rcases Nat.lt_or_ge s1.len.toNat s1.nlen.toNat with hlt | hle
  · rw [exec_decn_badLength h.size hlt, exec_decn_badLength h.size2 (h.len_lt_nlen_iff.1 hlt)]
    exact .failed _ _ _ _
  have hle2 : s2.nlen.toNat ≤ s2.len.toNat := by rwa [← h.len, ← h.nlen]
  cases hcheck : wireCheck sz s1.config.nmode s1.nlen.toNat s1.len.toNat (Machine.input s1) with
  | some blame =>
    rw [exec_decn_blamed h.size h.keyvalid1 hle hcheck,
      exec_decn_blamed h.size2 h.keyvalid2 hle2 (by rw [← h.config, ← h.nlen, ← h.len, ← h.input, hcheck])]
    exact .failed _ _ _ _
  | none =>
    have hclean := (wireCheck_eq_none_iff _ hle).1 hcheck
    obtain ⟨V, p, h1, h2⟩ := h.exists_chains (wireStep_answers sz s1.config.mmode s1.config.nmode s1.nlen.toNat)
      (wireStep_ignoresHigh sz s1.config.mmode s1.config.nmode s1.nlen.toNat) hclean
    rw [exec_decn_chain h.size h.keyvalid1 hclean hle h1,
      exec_decn_chain h.size2 h.keyvalid2 (h.clean_input_iff.1 hclean) hle2 (h.config ▸ h.nlen ▸ h2), ← h.len, ← h.nlen]
    exact .stored _ _ _ (by simp [toNat_len_sub_nlen hle])

/-- Each message command treats the two blocks alike. -/
theorem SameCall.alike_message {i : Instr} (hi : isMessage i) : Alike sz s1 s2 (exec i s1) (exec i s2) := by
  rcases hi with rfl | rfl | rfl | rfl
  · exact h.alike_enc
  · exact h.alike_dec
  · exact h.alike_encn
  · exact h.alike_decn

end

/-- Settles O53: alike completions fail the same, or store the same outputs and the same working state below `N`. -/
theorem callsDoNotSeeEarlierCalls : Obligations.CallsDoNotSeeEarlierCalls := by
  intro i s1 s2 t1 t2 sz hi hconfig hsz hk1 hk2 hvalid hkey hlen hnlen hibuf hwf1 hwf2 ht1 ht2
  have h : SameCall sz s1 s2 := ⟨hconfig, hsz, hk1, hk2, hvalid, hkey, hlen, hnlen, hibuf⟩
  have halike := h.alike_message hi
  rw [ht1, ht2] at halike
  cases halike with
  | failed e f u1 u2 => exact ⟨rfl, rfl, rfl, nofun⟩
  | stored W out olen hout =>
    refine ⟨rfl, rfl, rfl, fun _ => ⟨rfl, h.len, rfl, fun k hk => (cell_withHigh s2.grid W hk).symm, fun k hk => ?_⟩⟩
    have hk : k < out.length := hout ▸ hk
    simp [obufAt_afterMessage hwf1, obufAt_afterMessage hwf2, hk]

end Sys2Proof.Machine

/-! PROOFS of the family 60_exceptions. First acceptance and the completion of the command in flight (O5 to O7), then what a
completion leaves as it was (O11, O14) and what the fatal state keeps (O15), then the checks that fail a command, in the order of
R224 (O54 to O56, O58). Last the instances (O60). -/

namespace Sys2Proof.Machine

open Sys2Proof.Claims

/-! ### Acceptance and completion (R221, R222, R236) -/

/-- Settles O5: the engine's turn of a busy block completes the decoded command. -/
theorem stepRunsTheCommandInFlight : Obligations.StepRunsTheCommandInFlight := by
  intro s i rest hb hd
  have hfacing : step (facing s .engine rest) = complete { s with agenda := rest } := step_engine_busy hb rfl
  refine ⟨hfacing.trans (complete_ok hd), fun hag => ?_⟩
  rw [step_nil hag, engineTurn_busy hb, complete_ok hd]

/-- Settles O6: a word with no command is an illegal word, whose completion asks nothing of the configuration. -/
theorem illegalWordFails : Obligations.IllegalWordFails := by
  intro s rest hb hno
  have hfacing : step (facing s .engine rest) = complete { s with agenda := rest } := step_engine_busy hb rfl
  cases hd : decode s.cmd with
  | ok i => exact absurd hd (hno i)
  | error r =>
    rw [hfacing, complete_error (s := { s with agenda := rest }) hd, fail_eq_failed]
    rfl

theorem mapped_cmd : mapped 0x0007 = some .cmd := rfl

/-- Settles O7: a write to `CMD` is refused by a busy block and by one in the fatal state, and accepted otherwise. -/
theorem commandAcceptance : Obligations.CommandAcceptance := by
  intro s w rest
  refine ⟨fun hb hf => ?_, fun h => ?_⟩
  · rw [step_write_idle w rest hb mapped_cmd, writeReg, writeCmd, if_neg (by simp [hf]), accept]
  · cases hb : s.status.busy with
    | true => rw [step_write_busy _ w rest hb, refuse]
    | false =>
      have hf : s.status.fatal = true := h.resolve_left (by simp [hb])
      rw [step_write_idle w rest hb mapped_cmd, writeReg, writeCmd, if_pos hf, refuse]

/-! ### What a completion leaves as it was (R222, R232) -/

theorem keyCommand_eq_false {i : Instr} (hlit : i ≠ .keylit) (hdrv : i ≠ .keydrv) : keyCommand i = false := by
  cases i with
  | keylit => exact absurd rfl hlit
  | keydrv => exact absurd rfl hdrv
  | _ => rfl

/-- Settles O11: of all endings only the success of a key command writes `KEY`, and none writes what is the host's. -/
theorem completionWritesNoHostRegister : Obligations.CompletionWritesNoHostRegister := by
  intro i s t h
  cases exec_ending h with
  | success s' hw =>
    refine ⟨rfl, rfl, hw.buserr, hw.config, hw.ien, hw.cmd, hw.len, hw.nlen, hw.ibuf, hw.agenda, hw.rdata, hw.draws,
      hw.hardResets, fun hkey => hw.key ?_⟩
    obtain ⟨hlit, hdrv⟩ := hkey.resolve_right nofun
    exact keyCommand_eq_false hlit hdrv
  | _ => exact ⟨rfl, rfl, rfl, rfl, rfl, rfl, rfl, rfl, rfl, rfl, rfl, rfl, rfl, fun _ => ⟨rfl, rfl⟩⟩

theorem isMessage_of_messageCommand {i : Instr} (h : messageCommand i = true) : isMessage i := by
  cases i with
  | enc => exact .inl rfl
  | dec => exact .inr (.inl rfl)
  | encn => exact .inr (.inr (.inl rfl))
  | decn => exact .inr (.inr (.inr rfl))
  | _ => cases h

theorem isBufferCommand_of_checkCommand {i : Instr} (h : checkCommand i = true) : isBufferCommand i := by
  cases i with
  | keylit => exact .inr (.inl rfl)
  | keydrv => exact .inr (.inr (.inl rfl))
  | chkkey => exact .inr (.inr (.inr (.inl rfl)))
  | chkmsg kind => exact .inr (.inr (.inr (.inr ⟨kind, rfl⟩)))
  | _ => cases h

/-- What a failing command may write before it fails: nothing, or `IDX <- 0` of a buffer command, or `OLEN <- 0; IDX <- 0` of a
message command (R232). -/
inductive WroteBeforeFail (i : Instr) (s : State) : State → Prop where
  | nothing : WroteBeforeFail i s s
  | cursor (h : isBufferCommand i) : WroteBeforeFail i s { s with idx := 0 }
  | lengths (h : isMessage i) : WroteBeforeFail i s { s with olen := 0, idx := 0 }

/-- An ending with `ERR` set and a code other than `SymbolNotFound` is a failure. -/
theorem Ending.failure {i : Instr} {s t : State} (h : Ending i s t) (herr : t.status.err = true)
    (hcode : ecodeCode t.ecode ≠ 0x05) :
    ∃ e f s', t = fail e f s' ∧ WroteBeforeFail i s s' := by
  cases h with
  | failed e f => exact ⟨e, f, s, rfl, .nothing⟩
  | badKeyInput e f hi => exact ⟨e, f, _, rfl, .cursor (isBufferCommand_of_checkCommand hi)⟩
  | badMessageInput e bad hi => exact ⟨e, _, _, rfl, .lengths (isMessage_of_messageCommand hi)⟩
  | fatal => exact absurd (ecodeCode_ecodeOf symbolNotFoundCode noFindings) hcode
  | fatalInStep => exact absurd (ecodeCode_ecodeOf symbolNotFoundCode noFindings) hcode
  | fatalInMessage => exact absurd (ecodeCode_ecodeOf symbolNotFoundCode noFindings) hcode
  | success s' hw => cases herr

/-- Settles O14: what a failing command writes before it fails is all that `fail` does not. -/
theorem failureIsAtomic : Obligations.FailureIsAtomic := by
  intro s t rest hb hstep herr hcode
  rw [step_engine_busy (s := facing s .engine rest) hb rfl] at hstep
  rcases complete_cases hstep with ⟨_, rfl⟩ | ⟨i, hd, ht⟩
  · exact ⟨rfl, .inl rfl, .inl rfl⟩
  · obtain ⟨e, f, s', rfl, hw⟩ := (exec_ending ht).failure herr hcode
    cases hw with
    | nothing => exact ⟨rfl, .inl rfl, .inl rfl⟩
    | cursor hi => exact ⟨rfl, .inl rfl, .inr ⟨rfl, i, hd, hi⟩⟩
    | lengths hi => exact ⟨rfl, .inr ⟨rfl, i, hd, hi⟩, .inr ⟨rfl, i, hd, .inl hi⟩⟩

/-! ### The fatal state (R234) -/

/-- `t` is still fatal and idle, with the command register, the results, the grids and the output buffer of `s`. -/
structure KeepsFatal (s t : State) : Prop where
  fatal : t.status.fatal = true
  busy : t.status.busy = false
  cmd : t.cmd = s.cmd
  ecode : t.ecode = s.ecode
  find : t.find = s.find
  olen : t.olen = s.olen
  idx : t.idx = s.idx
  rsym : t.rsym = s.rsym
  rpos : t.rpos = s.rpos
  key : t.key = s.key
  grid : t.grid = s.grid
  marker : t.marker = s.marker
  obuf : t.obuf = s.obuf

/-- No write but the soft reset writes `FATAL` (10_state R28). -/
theorem writeReg_fatal {w : Word} {r : Reg} (s : State) (h : ¬ (r = .ctrl ∧ w = 1)) :
    (writeReg w s r).status.fatal = s.status.fatal := by
  cases r with
  | config => rw [writeReg]; split <;> rfl
  | ctrl =>
    rw [writeReg, writeCtrl, if_neg fun hw => h ⟨rfl, hw⟩]
    split <;> rfl
  | ien => rw [writeReg, writeIen]; split <;> rfl
  | cmd => rw [writeReg, writeCmd]; split <;> rfl
  | len => rw [writeReg]; split <;> rfl
  | nlen => rw [writeReg]; split <;> rfl
  | ibuf k => rw [writeReg]; split <;> rfl
  | _ => rfl

section
variable {s : State} (hf : s.status.fatal = true) (hb : s.status.busy = false)
include hf hb

theorem KeepsFatal.refl : KeepsFatal s s := ⟨hf, hb, rfl, rfl, rfl, rfl, rfl, rfl, rfl, rfl, rfl, rfl, rfl⟩

theorem keepsFatal_refuse : KeepsFatal s (refuse s) := { KeepsFatal.refl hf hb with }

theorem keepsFatal_busRead (a : Addr) : KeepsFatal s (busRead a s) := by
  rcases busRead_cases a s with ⟨_, h⟩ | ⟨_, _, _, _, h⟩ | ⟨_, _, _, h⟩ <;> rw [h]
  · exact { KeepsFatal.refl hf hb with }
  · exact { KeepsFatal.refl hf hb with }
  · exact { KeepsFatal.refl hf hb with }

theorem keepsFatal_writeReg {w : Word} {r : Reg} (h : ¬ (r = .ctrl ∧ w = 1)) : KeepsFatal s (writeReg w s r) := by
  have hfatal := (writeReg_fatal s h).trans hf
  have hend := writeReg_ending w s r
  generalize writeReg w s r = t at hfatal hend
  cases hend with
  | reset => cases hfatal
  | accepted v hnf => cases hnf.symm.trans hf
  | _ => exact { KeepsFatal.refl hf hb with }

theorem keepsFatal_busWrite {a : Addr} {w : Word} (h : ¬ (a = 0x0003 ∧ w = 1)) : KeepsFatal s (busWrite a w s) := by
  rcases busWrite_cases a w s with ⟨_, e⟩ | ⟨_, _, e⟩ | ⟨r, _, hm, e⟩ <;> rw [e]
  · exact keepsFatal_refuse hf hb
  · exact keepsFatal_refuse hf hb
  · refine keepsFatal_writeReg hf hb ?_
    rintro ⟨rfl, hw⟩
    exact h ⟨BitVec.eq_of_toNat_eq (addr_of_mapped hm).2, hw⟩

theorem keepsFatal_handle {e : Event} {t : State} (hhard : e ≠ .hardReset) (hsoft : e ≠ .write 0x0003 1)
    (h : handle e s = .next t) : KeepsFatal s t := by
  cases e with
  | read a => injection h with ht; exact ht ▸ keepsFatal_busRead hf hb a
  | write a w =>
    injection h with ht
    refine ht ▸ keepsFatal_busWrite hf hb ?_
    rintro ⟨rfl, rfl⟩
    exact hsoft rfl
  | hardReset => exact absurd rfl hhard
  | engine =>
    rw [handle, engineTurn_idle hb] at h
    injection h with ht
    exact ht ▸ KeepsFatal.refl hf hb

end

/-- Settles O15: each event but the two resets keeps the fatal state. -/
theorem fatalLastsUntilReset : Obligations.FatalLastsUntilReset := by
  intro s t e rest hf hb hhard hsoft hstep
  have hkeep : KeepsFatal { s with agenda := rest } t :=
    keepsFatal_handle (s := { s with agenda := rest }) hf hb hhard hsoft hstep
  exact ⟨hkeep.fatal, hkeep.busy, hkeep.cmd, hkeep.ecode, hkeep.find, hkeep.olen, hkeep.idx, hkeep.rsym, hkeep.rpos, hkeep.key,
    hkeep.grid, hkeep.marker, hkeep.obuf⟩

/-! ### Check 2: the configuration (R224, R239) -/

/-- A failure without findings, in the words of the claims. -/
theorem next_fail (e : CmdError) (s : State) :
    (.next (fail e noFindings s) : StepResult) = .next (failed (errorCode e) none3 s) := by
  rw [fail_eq_failed]
  rfl

/-- Every command asks for the configuration before anything else. -/
theorem exec_eq_configured (i : Instr) (s : State) : ∃ k, exec i s = configured s k := by
  cases i <;> exact ⟨_, rfl⟩

/-- Settles O54: the check that every command begins with fails. -/
theorem unconfiguredBlockFailsEveryCommand : Obligations.UnconfiguredBlockFailsEveryCommand := by
  intro i s hnone
  obtain ⟨k, hk⟩ := exec_eq_configured i s
  rw [hk, configured_none hnone, next_fail]
  rfl

/-! ### Checks 3 to 5: operands, lengths, key and working state (R224, R237, R238, R240, R241) -/

theorem lineInRange_eq_false {sz : GridSize} {line : BitVec 3} : lineInRange sz line = false ↔ sz.side ≤ line.toNat := by
  simp [lineInRange]

theorem symInRange_eq_false {sz : GridSize} {v : Sym} : symInRange sz v = false ↔ sz.count ≤ v.toNat := by simp [symInRange]

theorem posInRange_eq_false {sz : GridSize} {row col : BitVec 3} :
    posInRange sz ⟨row, col⟩ = false ↔ sz.side ≤ row.toNat ∨ sz.side ≤ col.toNat := by
  simp only [posInRange, Bool.and_eq_false_iff, lineInRange_eq_false]

section
variable {s : State} {sz : GridSize} (hsz : s.config.size = some sz)
include hsz

theorem exec_symat_badOperand {row col : BitVec 3} (h : sz.side ≤ row.toNat ∨ sz.side ≤ col.toNat) :
    exec (.symat row col) s = .next (fail .badOperand noFindings s) := by
  rw [exec, execSymat, configured_some hsz, if_pos (posInRange_eq_false.2 h)]

theorem exec_rotr_badOperand (m : Bool) {line : BitVec 3} (n : Int) (h : sz.side ≤ line.toNat) :
    exec (.rotr m line n) s = .next (fail .badOperand noFindings s) := by
  rw [exec, execRotr, configured_some hsz, if_pos (lineInRange_eq_false.2 h)]

theorem exec_rotc_badOperand (m : Bool) {line : BitVec 3} (n : Int) (h : sz.side ≤ line.toNat) :
    exec (.rotc m line n) s = .next (fail .badOperand noFindings s) := by
  rw [exec, execRotc, configured_some hsz, if_pos (lineInRange_eq_false.2 h)]

theorem exec_mkadv_badOperand {v : Sym} (h : sz.count ≤ v.toNat) : exec (.mkadv v) s = .next (fail .badOperand noFindings s) := by
  rw [exec, execMkadv, configured_some hsz, if_pos (symInRange_eq_false.2 h)]

theorem exec_chkmsg_badOperand {kind : BitVec 2} (h : msgKind kind = none) :
    exec (.chkmsg kind) s = .next (fail .badOperand noFindings s) := by
  rw [exec, execChkmsg, configured_some hsz, h]

section
variable (hk : s.status.keyvalid = false)
include hk

theorem exec_init_noKey : exec .init s = .next (fail .noKey noFindings s) := by
  rw [exec, execInit, configured_some hsz, if_pos hk]

theorem exec_enc_noKey : exec .enc s = .next (fail .noKey noFindings s) := by
  rw [exec, execEnc, configured_some hsz, if_pos hk]

theorem exec_dec_noKey : exec .dec s = .next (fail .noKey noFindings s) := by
  rw [exec, execDec, configured_some hsz, if_pos hk]

theorem exec_encn_noKey (hle : s.nlen.toNat ≤ s.len.toNat) : exec .encn s = .next (fail .noKey noFindings s) := by
  rw [exec, execEncn, configured_some hsz, if_neg (Nat.not_lt.2 hle), if_pos hk]

theorem exec_decn_noKey (hle : s.nlen.toNat ≤ s.len.toNat) : exec .decn s = .next (fail .noKey noFindings s) := by
  rw [exec, execDecn, configured_some hsz, if_neg (Nat.not_lt.2 hle), if_pos hk]

end

section
variable (hg : s.status.gridvalid = false)
include hg

theorem exec_symat_noState {row col : BitVec 3} (hrow : row.toNat < sz.side) (hcol : col.toNat < sz.side) :
    exec (.symat row col) s = .next (fail .noState noFindings s) := by
  rw [exec, execSymat, configured_some hsz, if_neg (mt posInRange_eq_false.1 (by omega)), if_pos hg]

theorem exec_rotr_noState (m : Bool) {line : BitVec 3} (n : Int) (hline : line.toNat < sz.side) :
    exec (.rotr m line n) s = .next (fail .noState noFindings s) := by
  rw [exec, execRotr, configured_some hsz, if_neg (mt lineInRange_eq_false.1 (Nat.not_le.2 hline)), if_pos hg]

theorem exec_rotc_noState (m : Bool) {line : BitVec 3} (n : Int) (hline : line.toNat < sz.side) :
    exec (.rotc m line n) s = .next (fail .noState noFindings s) := by
  rw [exec, execRotc, configured_some hsz, if_neg (mt lineInRange_eq_false.1 (Nat.not_le.2 hline)), if_pos hg]

theorem exec_mkadv_noState {v : Sym} (hv : v.toNat < sz.count) : exec (.mkadv v) s = .next (fail .noState noFindings s) := by
  rw [exec, execMkadv, configured_some hsz, if_neg (mt symInRange_eq_false.1 (Nat.not_le.2 hv)), if_pos hg]

theorem exec_posof_noState (v : Sym) : exec (.posof v) s = .next (fail .noState noFindings s) := by
  rw [exec, execPosof, configured_some hsz, if_pos hg]

theorem exec_enc1_noState (v : Sym) : exec (.enc1 v) s = .next (fail .noState noFindings s) := by
  rw [exec, execEnc1, configured_some hsz, if_pos hg]

theorem exec_dec1_noState (v : Sym) : exec (.dec1 v) s = .next (fail .noState noFindings s) := by
  rw [exec, execDec1, configured_some hsz, if_pos hg]

end

end

/-- Settles O56: each range check stands before the checks of key and working state. -/
theorem operandsAndLengthsOutOfRangeFail : Obligations.OperandsAndLengthsOutOfRangeFail := fun s _ hsz =>
  have hop := next_fail .badOperand s
  have hlen := next_fail .badLength s
  ⟨fun _ _ h => (exec_symat_badOperand hsz h).trans hop,
    fun m _ n h => ⟨(exec_rotr_badOperand hsz m n h).trans hop, (exec_rotc_badOperand hsz m n h).trans hop⟩,
    fun _ h => (exec_mkadv_badOperand hsz h).trans hop, (exec_chkmsg_badOperand hsz rfl).trans hop,
    fun h => ⟨(exec_encn_badLength hsz h).trans hlen, (exec_decn_badLength hsz h).trans hlen⟩⟩

/-- Settles O55: once the operand and the length pass, the missing key or working state is what fails. -/
theorem commandsWithoutAGridFail : Obligations.CommandsWithoutAGridFail := by
  intro s sz hsz
  refine ⟨fun hk i hi => ?_, fun hg => ?_⟩
  · refine Eq.trans ?_ (next_fail .noKey s)
    rcases hi with rfl | rfl | rfl | ⟨rfl | rfl, hle⟩
    · exact exec_init_noKey hsz hk
    · exact exec_enc_noKey hsz hk
    · exact exec_dec_noKey hsz hk
    · exact exec_encn_noKey hsz hk hle
    · exact exec_decn_noKey hsz hk hle
  · have hst := next_fail .noState s
    exact ⟨fun _ _ hrow hcol => (exec_symat_noState hsz hg hrow hcol).trans hst,
      fun m _ n h => ⟨(exec_rotr_noState hsz hg m n h).trans hst, (exec_rotc_noState hsz hg m n h).trans hst⟩,
      fun _ h => (exec_mkadv_noState hsz hg h).trans hst,
      fun v => ⟨(exec_posof_noState hsz hg v).trans hst, (exec_enc1_noState hsz hg v).trans hst,
        (exec_dec1_noState hsz hg v).trans hst⟩⟩

/-! ### Check 6: symbols outside the alphabet (R224, R235) -/

theorem failKeyInput_ill_eq_failed (e : CmdError) (bad : SymSet) (s : State) :
    failKeyInput e (illFindings bad) s = failed (errorCode e) ⟨bad, 0, 0⟩ { s with idx := 0 } := fail_eq_failed e _ _

/-- The set of one operand is its one bit (10_state R42). -/
theorem operandSet_eq (v : Sym) : operandSet v = BitVec.ofNat 64 (2 ^ v.toNat) := by
  apply BitVec.eq_of_getLsbD_eq
  intro k hk
  rw [operandSet, getLsbD_symSetOf _ k hk, BitVec.getLsbD_ofNat, Nat.testBit_two_pow]
  simp [hk, eq_comm, Bool.beq_eq_decide_eq]

/-- The illegal codes of a whole input, all of them (43_message_commands R190). -/
theorem isBadset_input (sz : GridSize) (s : State) : isBadset sz s 0 s.len.toNat (badset sz (input s)) := by
  simpa only [stretch_input_whole] using isBadset_stretch (sz := sz) (s := s) (lo := 0) le_rfl

section
variable {s : State} {sz : GridSize} (hsz : s.config.size = some sz)
include hsz

theorem exec_keydrv_unclean (h : ¬ clean sz s 0 s.len.toNat) :
    exec .keydrv s = .next (failKeyInput .invalidKeyword (illFindings (badset sz (input s))) s) := by
  rw [exec_keydrv hsz, if_neg (mt badset_input_eq_zero.1 h)]

theorem exec_chkmsg_unclean {kind : BitVec 2} {name : MsgKind} (hkind : msgKind kind = some name)
    (h : ¬ clean sz s 0 s.len.toNat) :
    exec (.chkmsg kind) s = .next (failKeyInput (msgKindError name) (illFindings (badset sz (input s))) s) := by
  rw [exec_chkmsg hsz hkind, if_neg (mt badset_input_eq_zero.1 h)]

variable (hg : s.status.gridvalid = true)
include hg

theorem exec_enc1_illegal {v : Sym} (hv : sz.count ≤ v.toNat) :
    exec (.enc1 v) s = .next (fail .invalidPlaintext (illFindings (operandSet v)) s) := by
  rw [exec, execEnc1, configured_some hsz, if_neg (by simp [hg]), if_pos (symInRange_eq_false.2 hv)]

theorem exec_dec1_illegal {v : Sym} (hv : sz.count ≤ v.toNat) :
    exec (.dec1 v) s = .next (fail .invalidCiphertext (illFindings (operandSet v)) s) := by
  rw [exec, execDec1, configured_some hsz, if_neg (by simp [hg]), if_pos (symInRange_eq_false.2 hv)]

end

/-- Settles O58: every command that checks its input reports the bad set of the whole input, under the error of its kind. -/
theorem illegalSymbolsAreReported : Obligations.IllegalSymbolsAreReported := by
  intro s sz hsz
  refine ⟨fun h => ⟨badset sz (input s), isBadset_input sz s, ?_, ?_, ?_, ?_, fun hk => ⟨?_, ?_⟩⟩,
    fun v hg hv => ⟨?_, ?_⟩⟩
  · rw [exec_keydrv_unclean hsz h, failKeyInput_ill_eq_failed]; rfl
  · rw [exec_chkmsg_unclean hsz (name := .nonce) rfl h, failKeyInput_ill_eq_failed]; rfl
  · rw [exec_chkmsg_unclean hsz (name := .plain) rfl h, failKeyInput_ill_eq_failed]; rfl
  · rw [exec_chkmsg_unclean hsz (name := .cipher) rfl h, failKeyInput_ill_eq_failed]; rfl
  · rw [exec_enc_unclean hsz hk h, failMessageInput_eq_failed]; rfl
  · rw [exec_dec_unclean hsz hk h, failMessageInput_eq_failed]; rfl
  · rw [exec_enc1_illegal hsz hg hv, fail_eq_failed, operandSet_eq]; rfl
  · rw [exec_dec1_illegal hsz hg hv, fail_eq_failed, operandSet_eq]; rfl

/-! ### Instances (R249) -/

/-- Everything a step of one block among several can answer: the number names none, or the block's own step replaces it in its
place. -/
theorem stepInstance_cases {k : Nat} {ss ss' : List State} (h : stepInstance k ss = .next ss') :
    (ss[k]? = none ∧ ss' = ss) ∨ ∃ s t, ss[k]? = some s ∧ step s = .next t ∧ ss' = ss.set k t := by
  rw [stepInstance] at h
  split at h
  next hk => injection h with h; exact .inl ⟨hk, h.symm⟩
  next s hk =>
    split at h
    next t ht => injection h with h; exact .inr ⟨s, t, hk, ht, h.symm⟩
    next => cases h
    next => cases h

/-- Settles O60: replacing one block keeps every other place of the list. -/
theorem instancesShareNothing : Obligations.InstancesShareNothing := by
  intro k ss ss' h
  rcases stepInstance_cases h with ⟨hk, rfl⟩ | ⟨s, t, hk, ht, rfl⟩
  · exact ⟨rfl, fun _ _ => rfl, fun s hs => by cases hk.symm.trans hs⟩
  · refine ⟨List.length_set, fun j hj => List.getElem?_set_ne hj.symm, fun s' hs' => ?_⟩
    obtain rfl : s = s' := Option.some.inj (hk.symm.trans hs')
    obtain ⟨hlt, _⟩ := List.getElem?_eq_some_iff.1 hk
    exact ⟨t, ht, List.getElem?_set_self hlt⟩

end Sys2Proof.Machine

/-! PROOFS of the family 70_reset_and_hazards. First that nothing stops the machine (O10), then that a command in flight completes
(O8). -/

namespace Sys2Proof.Machine

open Sys2Proof.Claims

/-! ### No step stops (R276) -/

/-- Every command answers a next state: it asks for the configuration, which always answers one. -/
theorem exec_next (i : Instr) (s : State) : ∃ t, exec i s = .next t := by
  obtain ⟨k, hk⟩ := exec_eq_configured i s
  exact ⟨_, hk.trans (configured_eq s k)⟩

theorem complete_next (s : State) : ∃ t, complete s = .next t := by
  cases hd : decode s.cmd with
  | error r => exact ⟨_, complete_error hd⟩
  | ok i =>
    rw [complete_ok hd]
    exact exec_next i s

theorem engineTurn_next (s : State) : ∃ t, engineTurn s = .next t := by
  cases hb : s.status.busy with
  | true =>
    rw [engineTurn_busy hb]
    exact complete_next s
  | false => exact ⟨s, engineTurn_idle hb⟩

/-- Every event answers a next state: only the engine's turn runs a command, and no host access or reset can stop. -/
theorem handle_next (e : Event) (s : State) : ∃ t, handle e s = .next t := by
  cases e with
  | read a => exact ⟨busRead a s, rfl⟩
  | write a w => exact ⟨busWrite a w s, rfl⟩
  | hardReset => exact ⟨hardReset s, rfl⟩
  | engine => exact engineTurn_next s

/-- Settles O10: the engine's turn and every event of the agenda answer a next state. -/
theorem everyStepCompletes : Obligations.EveryStepCompletes := by
  intro s
  cases hag : s.agenda with
  | nil =>
    rw [step_nil hag]
    exact engineTurn_next s
  | cons e rest =>
    rw [step_cons hag]
    exact handle_next e { s with agenda := rest }

/-! ### A command in flight completes (R222, R272) -/

/-- A completion clears `BUSY` and sets `DONE`, whether the word is a command or illegal (60_exceptions R222). -/
theorem complete_done {s t : State} (h : complete s = .next t) : t.status.busy = false ∧ t.status.done = true := by
  rcases complete_cases h with ⟨_, rfl⟩ | ⟨i, _, ht⟩
  · exact ⟨rfl, rfl⟩
  · obtain ⟨hbusy, hdone, _⟩ := completionWritesNoHostRegister i s t ht
    exact ⟨hbusy, hdone⟩

theorem complete_next_done (s : State) : ∃ t, complete s = .next t ∧ t.status.busy = false ∧ t.status.done = true := by
  obtain ⟨t, ht⟩ := complete_next s
  exact ⟨t, ht, complete_done ht⟩

/-- What an event other than a hard reset can be: the engine's turn or a host access. -/
theorem engine_or_isAccess {e : Event} (h : e ≠ .hardReset) : e = .engine ∨ isAccess e := by
  cases e with
  | read a => exact .inr (.inl ⟨a, rfl⟩)
  | write a w => exact .inr (.inr ⟨a, w, rfl⟩)
  | hardReset => exact absurd rfl h
  | engine => exact .inl rfl

/-- Settles O8, by induction on the agenda: an access leaves the command in flight and the rest of the agenda, and the engine's
turn, reached at the latest when the agenda is empty, completes it. -/
theorem acceptedCommandCompletes : Obligations.AcceptedCommandCompletes := by
  intro s hb hno
  induction hag : s.agenda generalizing s with
  | nil =>
    obtain ⟨t, ht, hdone⟩ := complete_next_done s
    exact ⟨0, s, t, le_rfl, run_zero s, hb, rfl, (step_nil hag).trans ((engineTurn_busy hb).trans ht), hdone⟩
  | cons e rest ih =>
    rw [hag, List.mem_cons, not_or] at hno
    obtain ⟨he, hrest⟩ := hno
    rcases engine_or_isAccess (Ne.symm he) with rfl | hacc
    · obtain ⟨t, ht, hdone⟩ := complete_next_done { s with agenda := rest }
      exact ⟨0, s, t, Nat.zero_le _, run_zero s, hb, rfl, (step_engine_busy hb hag).trans ht, hdone⟩
    · obtain ⟨p, hp⟩ := handle_access_busy (s := { s with agenda := rest }) hacc hb
      obtain ⟨k, u, t, hk, hrun, hlast⟩ := ih (withHostSide p { s with agenda := rest }) hb hrest rfl
      exact ⟨k + 1, u, t, Nat.succ_le_succ hk, (run_succ k ((step_cons hag).trans hp)).trans hrun, hlast⟩

end Sys2Proof.Machine

/-! PROOFS of the family other. The words of O4 that are commands are words that `encode` makes; the other three break R95, each in
its own way. -/

namespace Sys2Proof

/-! ### Words that are commands and words that are not (30_encoding R94, R95) -/

/-- The words of a command are those that `encode` makes of it: O1 and O2 together. -/
theorem decode_eq_ok_iff {w : Word} {i : Instr} : decode w = .ok i ↔ i.wellFormed = true ∧ encode i = w := by
  refine ⟨decodedWordIsTheCommandsWord w i, ?_⟩
  rintro ⟨hwf, rfl⟩
  exact decodeOfEncodeIsTheCommand i hwf

/-- A word that is illegal for any reason is no command. -/
theorem decode_ne_ok {w : Word} {r : IllegalWord} (h : decode w = .error r) (i : Instr) : decode w ≠ .ok i := by
  rw [h]
  nofun

/-- Settles O4: seven words are encodings, among them negative amounts down to the least; the other three have an unknown `OPC`, a
bit of `Z1`, and a bit above the six of a symbol. -/
theorem writtenOutWordsDecode : Obligations.WrittenOutWordsDecode := by
  have hopc : decode 0x00000000 = .error .unknownOpcode := by decide
  have hz1 : decode 0x12020001 = .error .reservedBits := by decide
  have hformat : decode 0x20000040 = .error .formatBits := by decide
  refine ⟨?_, ?_, ?_, ?_, ?_, ?_, ?_, decode_ne_ok hopc, decode_ne_ok hz1, decode_ne_ok hformat⟩
  all_goals exact decode_eq_ok_iff.2 ⟨by decide, by decide⟩

end Sys2Proof
